-- ==== Sys2Proof/Word.lean ====
section
/-! DEFINITION. The words of the block and the names that the spec's own lists fix: bytes and 16-bit values,
the two drivers, the two levels of a select line, the two bit orders, the four named command codes, and the
three raw formats in which an opcode-table row is written (spec 00_scope R2, R9; 30_encoding R60 to R63, R66, R73). -/

namespace Sys2Proof

/-- The unit of transfer (20_memory R50). -/
abbrev Byte := BitVec 8

/-- The 16-bit unsigned value of `DAC.WRITE` (10_state R29). -/
abbrev Half := BitVec 16

/-- The two drivers, which are also the two targets: the DAC and the switch bank (00_scope R2, R13). Where an
event names the select line `cs_of(d)`, the model writes `d` (DEDUCED: the two identifiers differ, 00_scope R8,
so a driver and its line determine each other; log entry 5). -/
inductive Dev where
  | dac
  | sw
  deriving DecidableEq, Repr, Inhabited

/-- The driver that is not this one. -/
def Dev.other : Dev → Dev
  | .dac => .sw
  | .sw => .dac

/-- The level of a line; on a select line `low` is active and `high` is idle (42_cs_sequencer R118). -/
inductive Level where
  | high
  | low
  deriving DecidableEq, Repr, Inhabited

/-- Which bit of a byte goes first (00_scope R13, 20_memory R47). -/
inductive BitOrder where
  | msbFirst
  | lsbFirst
  deriving DecidableEq, Repr, Inhabited

/-- The closed list of named DAC command codes (30_encoding R66, R76). -/
inductive Command where
  | chn1
  | chn2
  | chnAll
  | reset
  deriving DecidableEq, Repr

/-- The three formats of opcode_table.json: the request word (30_encoding R73), the DAC frame (R61) and the
switch frame (R62). -/
inductive Format where
  | req26
  | dac24
  | sw8
  deriving DecidableEq, Repr

/-- A word in one of the three formats. A `DAC24` word is the number `F` whose most significant byte goes
first on the bus (30_encoding R61). -/
inductive Code where
  | req26 (q : BitVec 26)
  | dac24 (f : BitVec 24)
  | sw8 (f : BitVec 8)
  deriving DecidableEq, Repr

/-- The format a word is in. -/
def Code.format : Code → Format
  | .req26 _ => .req26
  | .dac24 _ => .dac24
  | .sw8 _ => .sw8

/-- The word as a number. -/
def Code.toNat : Code → Nat
  | .req26 q => q.toNat
  | .dac24 f => f.toNat
  | .sw8 f => f.toNat

end Sys2Proof
end

