-- ==== Sys2Proof/Machine/Operands.lean ====
section
/-! DEFINITION. The encoders and the assembly of operands: how a command byte, a 16-bit value and a mask become
the bytes of a frame (spec 30_encoding R61 to R68, 40_dac_encoder R80, R88, 41_switch_encoder R100), and the
serial and numeric views of a frame (20_memory R48, 30_encoding R77). No function here reads any state. -/

namespace Sys2Proof.Machine

/-- `data_hi = v >> 8` (30_encoding R64). -/
def hiByte (v : Half) : Byte := (v >>> 8).setWidth 8

/-- `data_lo = v & 0xFF` (30_encoding R64). -/
def loByte (v : Half) : Byte := (v &&& 0x00FF#16).setWidth 8

/-- The bit patterns of the named command codes (30_encoding R66). -/
def cmdCode : Command → Byte
  | .chn1 => 0b00011000#8
  | .chn2 => 0b00011001#8
  | .chnAll => 0b11111000#8
  | .reset => 0b00101111#8

/-- `DAC_INIT_CMD`, the first byte of the DAC's init frame (30_encoding R67). -/
def dacInitCmd : Byte := 0x14#8

/-- `enc_dac(c, v) = [c, v >> 8, v & 0xFF]` (40_dac_encoder R80); the command byte is passed through
(30_encoding R65). -/
def encDac (c : Byte) (v : Half) : List Byte := [c, hiByte v, loByte v]

/-- `enc_dac_init = [0x14, 0x00, 0x01]` (40_dac_encoder R80). -/
def encDacInit : List Byte := [dacInitCmd, 0x00#8, 0x01#8]

/-- `enc_sw(m) = [m]` (41_switch_encoder R100). -/
def encSw (m : Byte) : List Byte := [m]

/-- `enc_sw_init = [0x00]` (41_switch_encoder R100). -/
def encSwInit : List Byte := [0x00#8]

/-- A frame as one number, the first byte on the bus the most significant (30_encoding R61, R77). -/
def frameNumber (bytes : List Byte) : Nat :=
  bytes.foldl (fun n b => n * 256 + b.toNat) 0

/-- The bits of a byte in the order they stand on the data line, first bit at the head (20_memory R48). -/
def serialBits : BitOrder → Byte → List Bool
  | .msbFirst, b => [b[7], b[6], b[5], b[4], b[3], b[2], b[1], b[0]]
  | .lsbFirst, b => [b[0], b[1], b[2], b[3], b[4], b[5], b[6], b[7]]

/-- A frame as the bit string on the data line (20_memory R48). -/
def frameBits (o : BitOrder) (bytes : List Byte) : List Bool :=
  bytes.flatMap (serialBits o)

end Sys2Proof.Machine
end

