-- ==== Sys2Proof/Syntax.lean ====
section
/-! DEFINITION. The instructions: one constructor for each of the 16 rows of spec/opcode_table.json. The eight
rows of level `request` are the operations a caller asks for (30_encoding R73); the eight rows of level `wire`
are the frames, each read as the operation that puts it on the bus (30_encoding R60, R72, R78; log entry 10). -/

namespace Sys2Proof

inductive Instr where
  /-- `DAC.INIT` (40_dac_encoder R81). -/
  | dacInit
  /-- `DAC.WRITE c, v` with any command byte (R82, R87). -/
  | dacWrite (c : Byte) (v : Half)
  /-- `DAC.WRITE CHN_1, v` (R83). -/
  | dacWriteChn1 (v : Half)
  /-- `DAC.WRITE CHN_2, v` (R84). -/
  | dacWriteChn2 (v : Half)
  /-- `DAC.WRITE CHN_ALL, v` (R85). -/
  | dacWriteChnAll (v : Half)
  /-- `DAC.WRITE RESET, v` (R86). -/
  | dacWriteReset (v : Half)
  /-- `SW.INIT` (41_switch_encoder R101). -/
  | swInit
  /-- `SW.WRITE m` (R102). -/
  | swWrite (m : Byte)
  /-- The frame `[c, v >> 8, v & 0xFF]` (R82). -/
  | frameDacWrite (c : Byte) (v : Half)
  /-- The frame `[0x18, v >> 8, v & 0xFF]` (R83). -/
  | frameDacWriteChn1 (v : Half)
  /-- The frame `[0x19, v >> 8, v & 0xFF]` (R84). -/
  | frameDacWriteChn2 (v : Half)
  /-- The frame `[0xF8, v >> 8, v & 0xFF]` (R85). -/
  | frameDacWriteChnAll (v : Half)
  /-- The frame `[0x2F, v >> 8, v & 0xFF]` (R86). -/
  | frameDacWriteReset (v : Half)
  /-- The frame `[0x14, 0x00, 0x01]` (R81). -/
  | frameDacInit
  /-- The frame `[m]` (R102). -/
  | frameSwWrite (m : Byte)
  /-- The frame `[0x00]` (R101). -/
  | frameSwInit
  deriving DecidableEq, Repr

end Sys2Proof
end

