-- ==== Sys2Proof/WellFormed.lean ====
section
/-! DEFINITION. Which instructions are well-formed: those the decoder can answer. Where two rows of the opcode
table match one word, the row with the larger mask is the reading (spec 30_encoding R78), so a generic row is
well-formed only on the words that no more specific row of its format takes. An instruction that is not
well-formed still has its meaning (40_dac_encoder R82 holds of every command byte); it is only spelled
differently when decoded (log entry 17). -/

namespace Sys2Proof

/-- The byte is one of the four named command codes (30_encoding R66). -/
def isNamedCode (c : Byte) : Bool :=
  c == Machine.cmdCode .chn1 || c == Machine.cmdCode .chn2 ||
    c == Machine.cmdCode .chnAll || c == Machine.cmdCode .reset

/-- The instruction is spelled by the most specific row that matches its word (30_encoding R78). -/
def Instr.wellFormed : Instr → Bool
  | .dacInit => true
  | .dacWrite c _ => !isNamedCode c
  | .dacWriteChn1 _ => true
  | .dacWriteChn2 _ => true
  | .dacWriteChnAll _ => true
  | .dacWriteReset _ => true
  | .swInit => true
  | .swWrite _ => true
  | .frameDacWrite c v => !isNamedCode c && !(c == Machine.dacInitCmd && v == 0x0001#16)
  | .frameDacWriteChn1 _ => true
  | .frameDacWriteChn2 _ => true
  | .frameDacWriteChnAll _ => true
  | .frameDacWriteReset _ => true
  | .frameDacInit => true
  | .frameSwWrite m => !(m == 0x00#8)
  | .frameSwInit => true

/-- `wellFormed` as a proposition. -/
abbrev Instr.WellFormed (i : Instr) : Prop := i.wellFormed = true

end Sys2Proof
end

