-- ==== Sys2Proof/Decode.lean ====
section
/-! DEFINITION. The decoder, from raw bytes and from words, and the encoder (spec 30_encoding R60 to R63, R72,
R73, R77, R78; log entry 17). Every word of each format decodes; bytes that make no word of the format are rejected by name. -/

namespace Sys2Proof

open Machine

/-- Why bytes are no word of a format. -/
inductive DecodeError where
  /-- A frame has exactly 3 bytes (DAC) or exactly 1 (switch) (20_memory R50, 30_encoding R63), and a request
  word laid out in bytes has 4; these bytes are of another number. -/
  | wrongLength (fmt : Format) (bytes : Nat)
  /-- The number does not fit the 26 bits of a request word (30_encoding R73), or that of a table word does not fit
  the bytes of its format (log entry 12). -/
  | wordTooWide (fmt : Format)
  /-- A table word was given with 0 bits or with more than 32, for which there is no format (log entry 12). -/
  | noSuchWidth (bits : Nat)
  deriving DecidableEq, Repr

/-- A `DAC.WRITE` under its symbol, where its command byte has one (30_encoding R78). -/
def requestDacWrite (c : Byte) (v : Half) : Instr :=
  if c = cmdCode .chn1 then .dacWriteChn1 v
  else if c = cmdCode .chn2 then .dacWriteChn2 v
  else if c = cmdCode .chnAll then .dacWriteChnAll v
  else if c = cmdCode .reset then .dacWriteReset v
  else .dacWrite c v

/-- The request word `REQ26` (30_encoding R73): `Q[25:24]` selects the operation, ignored bits are ignored. -/
def decodeRequest (q : BitVec 26) : Instr :=
  let op := q.extractLsb' 24 2
  if op = 0#2 then .dacInit
  else if op = 1#2 then requestDacWrite (q.extractLsb' 16 8) (q.extractLsb' 0 16)
  else if op = 2#2 then .swInit
  else .swWrite (q.extractLsb' 0 8)

/-- A DAC frame under the symbol of its command byte (30_encoding R78). -/
def wireDacWrite (c : Byte) (v : Half) : Instr :=
  if c = cmdCode .chn1 then .frameDacWriteChn1 v
  else if c = cmdCode .chn2 then .frameDacWriteChn2 v
  else if c = cmdCode .chnAll then .frameDacWriteChnAll v
  else if c = cmdCode .reset then .frameDacWriteReset v
  else .frameDacWrite c v

/-- The DAC frame `DAC24` (30_encoding R61, R78): the full-mask row `0x140001` first. -/
def decodeDacFrame (f : BitVec 24) : Instr :=
  if f = 0x140001#24 then .frameDacInit
  else wireDacWrite (f.extractLsb' 16 8) (f.extractLsb' 0 16)

/-- The switch frame `SW8` (30_encoding R62, R78): the full-mask row `0x00` first. -/
def decodeSwFrame (f : BitVec 8) : Instr :=
  if f = 0x00#8 then .frameSwInit else .frameSwWrite f

/-- The most specific reading of a word. Total: no word of any format is reserved or illegal
(30_encoding R69, R70, R73). -/
def decode : Code → Instr
  | .req26 q => decodeRequest q
  | .dac24 f => decodeDacFrame f
  | .sw8 f => decodeSwFrame f

/-- Every reading of a word, the most specific first: a row whose mask is smaller and that matches the same
word is "still true" (30_encoding R78), and of a frame both readings must be reported (R72). -/
def readings (w : Code) : List Instr :=
  match w with
  | .req26 q =>
    let i := decodeRequest q
    if q.extractLsb' 24 2 = 1#2 ∧ isNamedCode (q.extractLsb' 16 8) then
      [i, .dacWrite (q.extractLsb' 16 8) (q.extractLsb' 0 16)]
    else [i]
  | .dac24 f =>
    if f = 0x140001#24 ∨ isNamedCode (f.extractLsb' 16 8) then
      [decodeDacFrame f, .frameDacWrite (f.extractLsb' 16 8) (f.extractLsb' 0 16)]
    else [decodeDacFrame f]
  | .sw8 f =>
    if f = 0x00#8 then [.frameSwInit, .frameSwWrite f] else [.frameSwWrite f]

/-- How many bytes hold a word of the format. A frame's count is the spec's (20_memory R50); a request word has
no bytes in the spec, and the model lays it out in 4, the first the most significant, its six top bits zero
(DESIGN CHOICE, log entry 12). -/
def formatBytes : Format → Nat
  | .req26 => 4
  | .dac24 => 3
  | .sw8 => 1

/-- The word of a format that bytes in the order of transmission make. -/
def codeOfBytes (fmt : Format) (bytes : List Byte) : Except DecodeError Code :=
  if bytes.length = formatBytes fmt then
    let n := frameNumber bytes
    match fmt with
    | .req26 => if n < 2 ^ 26 then .ok (.req26 (BitVec.ofNat 26 n)) else .error (.wordTooWide fmt)
    | .dac24 => .ok (.dac24 (BitVec.ofNat 24 n))
    | .sw8 => .ok (.sw8 (BitVec.ofNat 8 n))
  else .error (.wrongLength fmt bytes.length)

/-- The decoder on bytes: total, rejecting by name. -/
def decodeBytes (fmt : Format) (bytes : List Byte) : Except DecodeError Instr :=
  match codeOfBytes fmt bytes with
  | .ok w => .ok (decode w)
  | .error e => .error e

/-- The request word with the fields `op`, `Q[23:16]` and `Q[15:0]` (30_encoding R73). -/
def reqWord (op : BitVec 2) (c : Byte) (v : Half) : BitVec 26 := op ++ c ++ v

/-- The DAC frame with the fields `cmd` and `data_hi ++ data_lo` (30_encoding R61, R77). -/
def dacWord (c : Byte) (v : Half) : BitVec 24 := c ++ v

/-- The encoder: the word of an instruction in its row's format, ignored bits at 0 (30_encoding R61, R62, R73). -/
def encode : Instr → Code
  | .dacInit => .req26 (reqWord 0#2 0#8 0#16)
  | .dacWrite c v => .req26 (reqWord 1#2 c v)
  | .dacWriteChn1 v => .req26 (reqWord 1#2 (cmdCode .chn1) v)
  | .dacWriteChn2 v => .req26 (reqWord 1#2 (cmdCode .chn2) v)
  | .dacWriteChnAll v => .req26 (reqWord 1#2 (cmdCode .chnAll) v)
  | .dacWriteReset v => .req26 (reqWord 1#2 (cmdCode .reset) v)
  | .swInit => .req26 (reqWord 2#2 0#8 0#16)
  | .swWrite m => .req26 (reqWord 3#2 0#8 (m.setWidth 16))
  | .frameDacWrite c v => .dac24 (dacWord c v)
  | .frameDacWriteChn1 v => .dac24 (dacWord (cmdCode .chn1) v)
  | .frameDacWriteChn2 v => .dac24 (dacWord (cmdCode .chn2) v)
  | .frameDacWriteChnAll v => .dac24 (dacWord (cmdCode .chnAll) v)
  | .frameDacWriteReset v => .dac24 (dacWord (cmdCode .reset) v)
  | .frameDacInit => .dac24 0x140001#24
  | .frameSwWrite m => .sw8 m
  | .frameSwInit => .sw8 0x00#8

/-- The request word with the bits that its operation ignores set to 0 (30_encoding R73). -/
def clearIgnored (q : BitVec 26) : BitVec 26 :=
  let op := q.extractLsb' 24 2
  if op = 1#2 then q
  else if op = 3#2 then q &&& 0x30000FF#26
  else q &&& 0x3000000#26

/-- The format of a table word given with this many bits. The formats have 8, 24 and 26 bits (30_encoding R61, R62,
R73). DESIGN CHOICE: any other width, up to the 32 of a request word's four bytes, is read as the next wider format
(1 to 7 as 8, 9 to 23 as 24, 25 and 27 to 32 as 26); 0 and more than 32 have no format (log entry 12). -/
def formatOfWidth (nbits : Nat) : Option Format :=
  if nbits = 0 then none
  else if nbits ≤ 8 then some .sw8
  else if nbits ≤ 24 then some .dac24
  else if nbits ≤ 32 then some .req26
  else none

/-- The `n` bytes of a number, the most significant first. -/
def natToBytes : Nat → Nat → List Byte
  | 0, _ => []
  | n + 1, w => BitVec.ofNat 8 (w / 256 ^ n) :: natToBytes n w

/-- The word that a row's bits `w` are, laid out in bytes and read back; none where they are too wide. -/
def tableCode (nbits w : Nat) : Except DecodeError Code :=
  match formatOfWidth nbits with
  | none => .error (.noSuchWidth nbits)
  | some fmt =>
    if w < 256 ^ formatBytes fmt then codeOfBytes fmt (natToBytes (formatBytes fmt) w)
    else .error (.wordTooWide fmt)

/-- What the decoder reads from a row's bits `w`, numbered as spec/opcode_table.json numbers them. -/
def decodeTableWord (nbits w : Nat) : Option Instr :=
  match tableCode nbits w with
  | .ok c => some (decode c)
  | .error _ => none

end Sys2Proof
end

