-- ==== Sys2Proof/Config.lean ====
section
/-! DEFINITION. The parameters of the block (spec 00_scope R7, R8) and the model's one free value. A parameter
is fixed when the block is built and is no state; every one the spec leaves OPEN is an uninterpreted constant
here, so that a claim about the machine holds for every legal value of it. -/

namespace Sys2Proof

/-- The edge of the bus clock at which data is sampled (00_scope R13, "sampling edge"). -/
inductive ClockEdge where
  | rising
  | falling
  deriving DecidableEq, Repr, Inhabited

/-- A clock polarity/phase mode, "the electrical convention (idle clock level, sampling edge)"
(00_scope R13, 20_memory R49). DEDUCED: the pair of the Glossary is taken as the whole of a mode (log entry 4). -/
structure ClockMode where
  idle : Level
  edge : ClockEdge
  deriving DecidableEq, Repr, Inhabited

/-- A configuration of the bus: the triple (rate, mode, bit order) of 00_scope R10 and R13. -/
structure BusCfg where
  rate : Nat
  mode : ClockMode
  order : BitOrder
  deriving DecidableEq, Repr, Inhabited

/-- Which of the four wait slots of an init sequence hold a `Wait` (42_cs_sequencer R121): any subset. -/
structure WaitSlots where
  w0 : Bool
  w1 : Bool
  w2 : Bool
  w3 : Bool
  deriving DecidableEq, Repr, Inhabited

/-- The spec's default of both slot parameters, `{W1, W2}` (92_eei_decisions D8). -/
def WaitSlots.w1w2 : WaitSlots := ⟨false, true, true, false⟩

/-- The parameters that 00_scope R7 leaves OPEN. `BO_DAC` is none of them: it is `MSB_FIRST` (`Params.cfg`).
Units are the model's (log entry 3): a rate is a natural number, `settle` is in microseconds. -/
structure Params where
  /-- `CS_DAC`, the identifier of the DAC's select line. -/
  csDac : Nat
  /-- `CS_SW`, the identifier of the switch bank's select line. -/
  csSw : Nat
  /-- The clock rate named R1 in the parameter table. -/
  rateDac : Nat
  /-- The clock rate named R2 in the parameter table. -/
  rateSw : Nat
  /-- `P1`. -/
  modeDac : ClockMode
  /-- `P2`. -/
  modeSw : ClockMode
  /-- `BO_SW`. -/
  orderSw : BitOrder
  /-- `T_SETTLE`, in microseconds. -/
  settle : Nat
  /-- `INIT_WAITS_DAC`. -/
  initWaitsDac : WaitSlots
  /-- `INIT_WAITS_SW`. -/
  initWaitsSw : WaitSlots
  deriving DecidableEq, Repr, Inhabited

/-- The constraints between parameters, 00_scope R8 (a), (b) and (d); (e) holds by `Params.cfg`, and (c) says
that no relation between the two rates is to be assumed. -/
abbrev Params.Legal (p : Params) : Prop :=
  p.csDac ≠ p.csSw ∧ p.modeDac ≠ p.modeSw ∧ 1 ≤ p.settle

/-- `cs_of(d)`: the identifier of the select line of driver `d` (00_scope R10). -/
def Params.csOf (p : Params) : Dev → Nat
  | .dac => p.csDac
  | .sw => p.csSw

/-- `cfg_of(d)`: `CFG_DAC = (R1, P1, MSB_FIRST)` and `CFG_SW = (R2, P2, BO_SW)` (00_scope R7, R10). -/
def Params.cfg (p : Params) : Dev → BusCfg
  | .dac => ⟨p.rateDac, p.modeDac, .msbFirst⟩
  | .sw => ⟨p.rateSw, p.modeSw, p.orderSw⟩

/-- One legal choice of the parameters, with the spec's defaults where it gives one (00_scope R7). It stands
for no real board: it shows that the constraints can be met, and the spec's test vectors are checked with it. -/
def Params.sample : Params where
  csDac := 0
  csSw := 1
  rateDac := 1
  rateSw := 1
  modeDac := ⟨.low, .rising⟩
  modeSw := ⟨.low, .falling⟩
  orderSw := .msbFirst
  settle := 1
  initWaitsDac := .w1w2
  initWaitsSw := .w1w2

/-- The open parameters, uninterpreted: nothing can be proved of them (92_eei_decisions D8, D10, D11, D17). -/
opaque Config.openParams : Params

/-- The parameters of the machine: any legal choice, which one is not known. DESIGN CHOICE: the premises of
00_scope R8 are met by construction, an illegal choice being replaced by `Params.sample` (log entry 2). -/
def Config.params : Params :=
  if Config.openParams.Legal then Config.openParams else Params.sample

/-- The premises of 00_scope R8 on the machine's parameters. -/
theorem Config.params_legal : Config.params.Legal := by
  unfold Config.params
  split
  · assumption
  · decide

/-- FREE VALUE: the byte the bus brings back in a transfer, one for each position of the trace
(20_memory R45, 92_eei_decisions D12; log entry 9). -/
opaque Config.receivedByte : Nat → Byte

end Sys2Proof
end

