-- ==== Sys2Proof/Machine/State.lean ====
section
/-! DEFINITION. The state of the machine as plain data: every item of the inventory of spec 10_state R20, under
its own name, the outcomes a request may have beside a next state (60_exceptions R130, R136), and the state
after reset (10_state R36). -/

namespace Sys2Proof.Machine

/-- The driver state machine of each driver (10_state R21). -/
inductive DriverState where
  | uninitialized
  | ready
  deriving DecidableEq, Repr

/-- The six kinds of events (20_memory R43). A line is named by its driver (`Dev`). -/
inductive Event where
  /-- `PinOutput(cs_of(d))`: the line is put in output mode. -/
  | pinOutput (d : Dev)
  /-- `CsSet(cs_of(d), L)`: the line is driven to a level. -/
  | csSet (d : Dev) (level : Level)
  /-- `BusBegin(cfg)`: the bus is acquired and configured. -/
  | busBegin (cfg : BusCfg)
  /-- `BusEnd`: the bus is released. -/
  | busEnd
  /-- `Transfer(b)`: one byte is shifted out; the byte shifted in is dropped. -/
  | transfer (b : Byte)
  /-- `Wait`: nothing happens for at least `T_SETTLE`. -/
  | wait
  deriving DecidableEq, Repr

/-- The four operations with their operand values (00_scope R2). -/
inductive Op where
  | dacInit
  | dacWrite (c : Byte) (v : Half)
  | swInit
  | swWrite (m : Byte)
  deriving DecidableEq, Repr

/-- The sequencer: idle, or about to emit event `k` of operation `op` (10_state R27). -/
inductive Seq where
  | idle
  | run (op : Op) (k : Nat)
  deriving DecidableEq, Repr

/-- One value for each of the two drivers. -/
structure PerDev (α : Type) where
  dac : α
  sw : α
  deriving DecidableEq, Repr

/-- What the caller or the environment does next. This is no state of the hardware ("There is no queue of
requests", 30_encoding R74): it is what the outside world will do, so that the machine's step is a function
(DESIGN CHOICE, log entry 6). -/
inductive Input where
  /-- The caller presents a word; the operation runs as one step (42_cs_sequencer R115). -/
  | call (w : Code)
  /-- The caller presents a word; the operation runs one event a step (42_cs_sequencer R116). -/
  | start (w : Code)
  /-- Another user of the bus leaves it with this configuration (20_memory R59). -/
  | env (cfg : BusCfg)
  deriving DecidableEq, Repr

/-- The complete state (10_state R20) and the model's own `inputs`. -/
structure State where
  /-- `st[d]` (10_state R21). -/
  st : PerDev DriverState
  /-- `oe[d]`: the select line has been put in output mode (10_state R23). -/
  oe : PerDev Bool
  /-- `cs[d]`: the level last driven on the select line, none before any (10_state R23). -/
  cs : PerDev (Option Level)
  /-- `seq` (10_state R27). -/
  seq : Seq
  /-- `bus.cfg`, none for `Unknown` (10_state R26). -/
  busCfg : Option BusCfg
  /-- `bus.open` (10_state R26). -/
  busOpen : Bool
  /-- `trace`: every event since reset, oldest first (10_state R28). -/
  trace : List Event
  /-- `refused_seen` (10_state R37). -/
  refusedSeen : Bool
  /-- The model's own: what the outside world does next, front first. -/
  inputs : List Input
  deriving DecidableEq, Repr

/-- The faults of the machine: none. "No error or fault state is modeled" (10_state R21); there is no fault
outcome and no stuck state (60_exceptions R136, 00_scope R12), and no event can fail (20_memory R44). Nothing
raises a fault; this is neither safe nor unsafe, it is the spec's own statement (log entry 19). -/
inductive Fault where
  deriving DecidableEq, Repr

/-- Why a request has no meaning: the closed list of 60_exceptions R136, and the host's own entry. -/
inductive Refusal where
  /-- Raised by the acceptance of `DAC.WRITE` or `SW.WRITE` while `st[d]` is Uninitialized
  (42_cs_sequencer R113). Safe: the spec gives the case no meaning. -/
  | writeBeforeInit (d : Dev)
  /-- Raised by the acceptance of any request while `seq` is not Idle (42_cs_sequencer R112). Safe. -/
  | busy
  /-- Raised by no meaning; kept for the arms of `exec` that have none. Safe. -/
  | notModelled (mnemonic : String)
  deriving DecidableEq, Repr

/-- The state right after reset, the construction of both drivers (10_state R36, 70_reset_and_hazards R150).
Every value but that of `inputs` is the spec's. -/
def State.reset : State where
  st := ⟨.uninitialized, .uninitialized⟩
  oe := ⟨false, false⟩
  cs := ⟨none, none⟩
  seq := .idle
  busCfg := none
  busOpen := false
  trace := []
  refusedSeen := false
  inputs := []

end Sys2Proof.Machine
end

