-- ==== Sys2Proof/Machine/Flags.lean ====
section
/-! DEFINITION. The conditions. The block has no flags and no condition codes (spec 10_state R31); the only
tests it makes are those of acceptance, before the first event of an operation (42_cs_sequencer R125): that the
sequencer is idle (R112) and, for a write, that its driver is Ready (R113). -/

namespace Sys2Proof.Machine

/-- The value held for a driver. -/
def PerDev.get {α : Type} (x : PerDev α) : Dev → α
  | .dac => x.dac
  | .sw => x.sw

/-- The values with that of one driver replaced. -/
def PerDev.set {α : Type} (x : PerDev α) (d : Dev) (a : α) : PerDev α :=
  match d with
  | .dac => { x with dac := a }
  | .sw => { x with sw := a }

/-- The driver an operation belongs to. -/
def Op.dev : Op → Dev
  | .dacInit => .dac
  | .dacWrite _ _ => .dac
  | .swInit => .sw
  | .swWrite _ => .sw

/-- The operation is an init, accepted in every driver state (42_cs_sequencer R114). -/
def Op.isInit : Op → Bool
  | .dacInit => true
  | .dacWrite _ _ => false
  | .swInit => true
  | .swWrite _ => false

/-- Why a request for `op` is not accepted, none when it is: `Busy` first, then `WriteBeforeInit`
(42_cs_sequencer R112, R113; 60_exceptions R132, R136). -/
def refusalOf (op : Op) (s : State) : Option Refusal :=
  match s.seq with
  | .run _ _ => some .busy
  | .idle =>
    if op.isInit then none
    else
      match s.st.get op.dev with
      | .ready => none
      | .uninitialized => some (.writeBeforeInit op.dev)

end Sys2Proof.Machine
end

