-- ==== Sys2Proof/Machine/Ops.lean ====
section
/-! DEFINITION. The named operations: the effect of each event (spec 20_memory R44), the step lists of the four
operations (40_dac_encoder R81, R82; 41_switch_encoder R101, R102), and how a request is executed, as a whole
(42_cs_sequencer R115) or one event at a time (R116). There is no exception to take and none to return from
(60_exceptions R130 to R134). -/

namespace Sys2Proof.Machine

/-- One transfer on the bus: the byte that comes back, a free value (20_memory R45), and the state after, which
the transfer does not change (R44). -/
def busTransfer (_b : Byte) (s : State) : Byte × State :=
  (Config.receivedByte s.trace.length, s)

/-- The effect of an event on the state (20_memory R44), but for the trace. -/
def effect (e : Event) (s : State) : State :=
  match e with
  | .pinOutput d => { s with oe := s.oe.set d true }
  | .csSet d l => { s with cs := s.cs.set d (some l) }
  | .busBegin cfg => { s with busCfg := some cfg, busOpen := true }
  | .busEnd => { s with busOpen := false }
  | .transfer b => (busTransfer b s).2
  | .wait => s

/-- `emit E`: the event's effect, and the event appended to the trace (00_scope R10, 20_memory R44). -/
def emit (e : Event) (s : State) : State :=
  { effect e s with trace := s.trace ++ [e] }

/-- The events of a list, emitted in order (20_memory R54). -/
def emitAll : List Event → State → State
  | [], s => s
  | e :: es, s => emitAll es (emit e s)

/-- The transfers of a frame, the first byte first (20_memory R46). -/
def transfers (frame : List Byte) : List Event := frame.map .transfer

/-- A wait slot of an init sequence: a `Wait` where the slot is filled (42_cs_sequencer R121). -/
def slot (filled : Bool) : List Event := if filled then [.wait] else []

/-- The events of `DAC.INIT` (40_dac_encoder R81). -/
def dacInitSteps (p : Params) : List Event :=
  [.pinOutput .dac, .csSet .dac .high, .busBegin (p.cfg .dac)]
    ++ slot p.initWaitsDac.w0 ++ [.csSet .dac .low]
    ++ slot p.initWaitsDac.w1 ++ transfers encDacInit
    ++ slot p.initWaitsDac.w2 ++ [.csSet .dac .high]
    ++ slot p.initWaitsDac.w3 ++ [.busEnd]

/-- The events of `DAC.WRITE c, v` (40_dac_encoder R82). -/
def dacWriteSteps (p : Params) (c : Byte) (v : Half) : List Event :=
  [.csSet .dac .low, .busBegin (p.cfg .dac)]
    ++ transfers (encDac c v)
    ++ [.wait, .csSet .dac .high, .busEnd]

/-- The events of `SW.INIT` (41_switch_encoder R101). -/
def swInitSteps (p : Params) : List Event :=
  [.pinOutput .sw, .csSet .sw .high, .busBegin (p.cfg .sw)]
    ++ slot p.initWaitsSw.w0 ++ [.csSet .sw .low]
    ++ slot p.initWaitsSw.w1 ++ transfers encSwInit
    ++ slot p.initWaitsSw.w2 ++ [.csSet .sw .high]
    ++ slot p.initWaitsSw.w3 ++ [.busEnd]

/-- The events of `SW.WRITE m` (41_switch_encoder R102). -/
def swWriteSteps (p : Params) (m : Byte) : List Event :=
  [.busBegin (p.cfg .sw), .csSet .sw .low, .wait]
    ++ transfers (encSw m)
    ++ [.wait, .csSet .sw .high, .busEnd]

/-- `steps(op)`: it depends on the operation, its operands and the parameters only (42_cs_sequencer R115). -/
def steps (p : Params) : Op → List Event
  | .dacInit => dacInitSteps p
  | .dacWrite c v => dacWriteSteps p c v
  | .swInit => swInitSteps p
  | .swWrite m => swWriteSteps p m

/-- The frame an operation sends (40_dac_encoder R80, 41_switch_encoder R100). -/
def frameOf : Op → List Byte
  | .dacInit => encDacInit
  | .dacWrite c v => encDac c v
  | .swInit => encSwInit
  | .swWrite m => encSw m

/-- The last action of an operation: an init makes its driver Ready (42_cs_sequencer R115, R116). -/
def finish (op : Op) (s : State) : State :=
  if op.isInit then { s with st := s.st.set op.dev .ready } else s

/-- `exec(S, op)`: a refused request changes nothing; an accepted one emits its whole list
(42_cs_sequencer R115). -/
def request (p : Params) (op : Op) (s : State) : Host.Outcome State Fault Refusal :=
  match refusalOf op s with
  | some r => .refused r
  | none => .next (finish op (emitAll (steps p op) s))

/-- The transition `accept`: an accepted request leaves the sequencer at the head of its list
(42_cs_sequencer R116). -/
def accept (op : Op) (s : State) : Host.Outcome State Fault Refusal :=
  match refusalOf op s with
  | some r => .refused r
  | none => .next { s with seq := .run op 0 }

/-- The transition `step` of a running sequencer: one event, and Idle after the last (42_cs_sequencer R116,
10_state R30). DESIGN CHOICE: past the end of the list, where no run comes, it returns to Idle and emits
nothing (log entry 13). -/
def advance (p : Params) (op : Op) (k : Nat) (s : State) : State :=
  match (steps p op)[k]? with
  | none => { s with seq := .idle }
  | some e =>
    if k + 1 < (steps p op).length then { emit e s with seq := .run op (k + 1) }
    else finish op { emit e s with seq := .idle }

/-- The operation an instruction asks for; a frame is read as the operation that puts it on the bus
(30_encoding R72, R78; DESIGN CHOICE, log entry 10). -/
def opOf : Instr → Op
  | .dacInit => .dacInit
  | .dacWrite c v => .dacWrite c v
  | .dacWriteChn1 v => .dacWrite (cmdCode .chn1) v
  | .dacWriteChn2 v => .dacWrite (cmdCode .chn2) v
  | .dacWriteChnAll v => .dacWrite (cmdCode .chnAll) v
  | .dacWriteReset v => .dacWrite (cmdCode .reset) v
  | .swInit => .swInit
  | .swWrite m => .swWrite m
  | .frameDacWrite c v => .dacWrite c v
  | .frameDacWriteChn1 v => .dacWrite (cmdCode .chn1) v
  | .frameDacWriteChn2 v => .dacWrite (cmdCode .chn2) v
  | .frameDacWriteChnAll v => .dacWrite (cmdCode .chnAll) v
  | .frameDacWriteReset v => .dacWrite (cmdCode .reset) v
  | .frameDacInit => .dacInit
  | .frameSwWrite m => .swWrite m
  | .frameSwInit => .swInit

/-- The events of `MemWrite(dev, n, v)`: for `k` from `n - 1` down to 0, the transfer of `v[8k+7:8k]`
(00_scope R11). -/
def memWriteSteps : Nat → Nat → List Event
  | 0, _ => []
  | k + 1, v => .transfer (BitVec.ofNat 8 (v / 2 ^ (8 * k))) :: memWriteSteps k v

/-- When `MemWrite(dev, n, v)` has a meaning: `n` is 1 or 3 and `v` a number of `8n` bits (00_scope R11), the
select line of `dev` is Low, and the bus is in a transaction begun with `cfg_of(dev)` (42_cs_sequencer R126
law 4). -/
abbrev MemWriteDefined (p : Params) (d : Dev) (n v : Nat) (s : State) : Prop :=
  (n = 1 ∨ n = 3) ∧ v < 2 ^ (8 * n) ∧
    s.cs.get d = some .low ∧ s.busOpen = true ∧ s.busCfg = some (p.cfg d)

/-- `MemWrite(dev, n, v)` (00_scope R11); none where it has no meaning. -/
def memWrite (p : Params) (d : Dev) (n v : Nat) (s : State) : Option State :=
  if MemWriteDefined p d n v s then some (emitAll (memWriteSteps n v) s) else none

/-- The environment's move on the bus configuration (20_memory R59). -/
def envMove (cfg : BusCfg) (s : State) : State := { s with busCfg := some cfg }

/-- A refused request leaves its mark and nothing else (10_state R37). -/
def markRefused (s : State) : State := { s with refusedSeen := true }

end Sys2Proof.Machine
end

