-- ==== Sys2Proof/Machine/DacDriver.lean ====
section
/-! DEFINITION. The DAC driver: `DAC.INIT` and `DAC.WRITE`, in general and with each named command code
(spec 40_dac_encoder R81 to R87). -/

namespace Sys2Proof.Machine

/-- `DAC.INIT` (40_dac_encoder R81). -/
def execDacInit (s : State) : Host.Outcome State Fault Refusal :=
  request Config.params .dacInit s

/-- `DAC.WRITE c, v`, for every command byte (40_dac_encoder R82, R87). -/
def execDacWrite (c : Byte) (v : Half) (s : State) : Host.Outcome State Fault Refusal :=
  request Config.params (.dacWrite c v) s

/-- `DAC.WRITE CHN_1, v` (40_dac_encoder R83). -/
def execDacWriteChn1 (v : Half) (s : State) : Host.Outcome State Fault Refusal :=
  request Config.params (.dacWrite (cmdCode .chn1) v) s

/-- `DAC.WRITE CHN_2, v` (40_dac_encoder R84). -/
def execDacWriteChn2 (v : Half) (s : State) : Host.Outcome State Fault Refusal :=
  request Config.params (.dacWrite (cmdCode .chn2) v) s

/-- `DAC.WRITE CHN_ALL, v`: one frame, not two (40_dac_encoder R85). -/
def execDacWriteChnAll (v : Half) (s : State) : Host.Outcome State Fault Refusal :=
  request Config.params (.dacWrite (cmdCode .chnAll) v) s

/-- `DAC.WRITE RESET, v`: the value is sent unchanged and the driver stays Ready (40_dac_encoder R86). -/
def execDacWriteReset (v : Half) (s : State) : Host.Outcome State Fault Refusal :=
  request Config.params (.dacWrite (cmdCode .reset) v) s

end Sys2Proof.Machine
end

