-- ==== Sys2Proof/Machine/SwitchDriver.lean ====
section
/-! DEFINITION. The switch driver: `SW.INIT` and `SW.WRITE` (spec 41_switch_encoder R101, R102). -/

namespace Sys2Proof.Machine

/-- `SW.INIT` (41_switch_encoder R101). -/
def execSwInit (s : State) : Host.Outcome State Fault Refusal :=
  request Config.params .swInit s

/-- `SW.WRITE m`, for every mask (41_switch_encoder R102). -/
def execSwWrite (m : Byte) (s : State) : Host.Outcome State Fault Refusal :=
  request Config.params (.swWrite m) s

end Sys2Proof.Machine
end

