-- ==== Sys2Proof/Machine/WireFrames.lean ====
section
/-! DEFINITION. The wire-level rows of the opcode table. A frame stands on the bus only inside the transaction
of the operation that sends it (spec 20_memory R50, R51), and the table gives each frame row the rule of that
operation; so a frame row is executed as the operation it is read as (30_encoding R72, R78; DESIGN CHOICE, log
entry 10). -/

namespace Sys2Proof.Machine

/-- The frame `[c, v >> 8, v & 0xFF]` (40_dac_encoder R82). -/
def execFrameDacWrite (c : Byte) (v : Half) (s : State) : Host.Outcome State Fault Refusal :=
  request Config.params (.dacWrite c v) s

/-- The frame `[0x18, v >> 8, v & 0xFF]` (40_dac_encoder R83). -/
def execFrameDacWriteChn1 (v : Half) (s : State) : Host.Outcome State Fault Refusal :=
  request Config.params (.dacWrite (cmdCode .chn1) v) s

/-- The frame `[0x19, v >> 8, v & 0xFF]` (40_dac_encoder R84). -/
def execFrameDacWriteChn2 (v : Half) (s : State) : Host.Outcome State Fault Refusal :=
  request Config.params (.dacWrite (cmdCode .chn2) v) s

/-- The frame `[0xF8, v >> 8, v & 0xFF]` (40_dac_encoder R85). -/
def execFrameDacWriteChnAll (v : Half) (s : State) : Host.Outcome State Fault Refusal :=
  request Config.params (.dacWrite (cmdCode .chnAll) v) s

/-- The frame `[0x2F, v >> 8, v & 0xFF]` (40_dac_encoder R86). -/
def execFrameDacWriteReset (v : Half) (s : State) : Host.Outcome State Fault Refusal :=
  request Config.params (.dacWrite (cmdCode .reset) v) s

/-- The frame `[0x14, 0x00, 0x01]`, read as the init's (40_dac_encoder R81, 30_encoding R78). -/
def execFrameDacInit (s : State) : Host.Outcome State Fault Refusal :=
  request Config.params .dacInit s

/-- The frame `[m]` (41_switch_encoder R102). -/
def execFrameSwWrite (m : Byte) (s : State) : Host.Outcome State Fault Refusal :=
  request Config.params (.swWrite m) s

/-- The frame `[0x00]`, read as the init's (41_switch_encoder R101, 30_encoding R78). -/
def execFrameSwInit (s : State) : Host.Outcome State Fault Refusal :=
  request Config.params .swInit s

end Sys2Proof.Machine
end

