-- ==== Sys2Proof/Machine/Dispatch.lean ====
section
/-! DEFINITION. One arm per constructor of Instr, each one call of its meaning. -/

namespace Sys2Proof.Machine

def exec (i : Instr) (s : State) : Host.Outcome State Fault Refusal :=
  match i with
  | .dacInit => Sys2Proof.Machine.execDacInit s
  | .dacWrite c v => Sys2Proof.Machine.execDacWrite c v s
  | .dacWriteChn1 v => Sys2Proof.Machine.execDacWriteChn1 v s
  | .dacWriteChn2 v => Sys2Proof.Machine.execDacWriteChn2 v s
  | .dacWriteChnAll v => Sys2Proof.Machine.execDacWriteChnAll v s
  | .dacWriteReset v => Sys2Proof.Machine.execDacWriteReset v s
  | .swInit => Sys2Proof.Machine.execSwInit s
  | .swWrite m => Sys2Proof.Machine.execSwWrite m s
  | .frameDacWrite c v => Sys2Proof.Machine.execFrameDacWrite c v s
  | .frameDacWriteChn1 v => Sys2Proof.Machine.execFrameDacWriteChn1 v s
  | .frameDacWriteChn2 v => Sys2Proof.Machine.execFrameDacWriteChn2 v s
  | .frameDacWriteChnAll v => Sys2Proof.Machine.execFrameDacWriteChnAll v s
  | .frameDacWriteReset v => Sys2Proof.Machine.execFrameDacWriteReset v s
  | .frameDacInit => Sys2Proof.Machine.execFrameDacInit s
  | .frameSwWrite m => Sys2Proof.Machine.execFrameSwWrite m s
  | .frameSwInit => Sys2Proof.Machine.execFrameSwInit s

end Sys2Proof.Machine
end

