-- ==== Sys2Proof/Machine/Caller.lean ====
section
/-! DEFINITION. What stands between the machine and the outside world: how the sequencer takes the next input
while it is idle, and what becomes of a request that is refused (spec 30_encoding R74; 42_cs_sequencer R112;
10_state R37; 20_memory R59). One caller, and an environment that moves at Idle only (log entry 15). -/

namespace Sys2Proof.Machine

/-- The run goes on after a refused request, which leaves its mark in `s` (10_state R37, 95_test_vectors P4; log entry 8). A
next state is taken; a refusal that is none of the spec's two reasons stays one. -/
def settle (s : State) (o : Host.Outcome State Fault Refusal) : Host.Outcome State Fault Refusal :=
  match o with
  | .next t => .next t
  | .fault f => .fault f
  | .refused (.writeBeforeInit _) => .next (markRefused s)
  | .refused .busy => .next (markRefused s)
  | .refused r => .refused r

/-- The idle block serves the front of the inputs; with none it waits (70_reset_and_hazards R152). -/
def serve (s : State) : Host.Outcome State Fault Refusal :=
  match s.inputs with
  | [] => .next s
  | .call w :: rest => settle { s with inputs := rest } (exec (decode w) { s with inputs := rest })
  | .start w :: rest => settle { s with inputs := rest } (accept (opOf (decode w)) { s with inputs := rest })
  | .env cfg :: rest => .next (envMove cfg { s with inputs := rest })

/-- The caller presents `w` to the idle block, before everything else it will present. -/
def present (w : Code) (s : State) : State :=
  { s with seq := .idle, inputs := .call w :: s.inputs }

end Sys2Proof.Machine
end

