-- ==== Sys2Proof/Machine/Step.lean ====
section
/-! DEFINITION. One step of the machine: a running sequencer emits its next event (spec 42_cs_sequencer R116);
an idle one serves the next input (10_state R27, 70_reset_and_hazards R152). -/

namespace Sys2Proof.Machine

/-- One step. While the sequencer runs, only the block moves (42_cs_sequencer R116). -/
def step (s : State) : Host.Outcome State Fault Refusal :=
  match s.seq with
  | .run op k => .next (advance Config.params op k s)
  | .idle => serve s

/-- The state with the word of an opcode-table row presented to the idle block, so that the very next step
executes it (log entry 7). A width that `formatOfWidth` reads as no format, and a word that does not fit the format,
leave the state as it is (log entry 12). -/
def State.withFetchWord (s : State) (nbits w : Nat) : State :=
  match tableCode nbits w with
  | .ok c => present c s
  | .error _ => s

end Sys2Proof.Machine
end

