-- ==== Sys2Proof/Machine/Assembler.lean ====
section
/-! DEFINITION. The textual syntax of a request, one a line (spec 30_encoding R75, R76; literals 00_scope R9).
What the spec leaves to the reader (a literal of bare digits, spaces, the case of hexadecimal digits) is the
model's choice (log entry 14). -/

namespace Sys2Proof.Machine

/-- Why a line is no request. -/
inductive AsmError where
  | unknownMnemonic
  | wrongOperandCount
  | badOperand
  /-- "A literal that does not fit its width is a syntax error of the notation" (30_encoding R75). -/
  | literalTooWide (n : Nat) (bits : Nat)
  deriving DecidableEq, Repr

/-- The value of a digit. -/
def digitValue (ch : Char) : Option Nat :=
  if '0' ≤ ch ∧ ch ≤ '9' then some (ch.toNat - '0'.toNat)
  else if 'A' ≤ ch ∧ ch ≤ 'F' then some (ch.toNat - 'A'.toNat + 10)
  else if 'a' ≤ ch ∧ ch ≤ 'f' then some (ch.toNat - 'a'.toNat + 10)
  else none

/-- The number that digits of a base make after `acc`. -/
def digitsValue (base : Nat) : Nat → List Char → Option Nat
  | acc, [] => some acc
  | acc, ch :: rest =>
    match digitValue ch with
    | some k => if k < base then digitsValue base (acc * base + k) rest else none
    | none => none

/-- A literal: after `0x` hexadecimal, after `0b` binary (00_scope R9). DESIGN CHOICE: a literal of bare digits,
which R9 reads only in a table's "Bits" column, is decimal in a request line, eight digits `0` and `1` included
(log entry 14). -/
def literalValue : List Char → Option Nat
  | [] => none
  | ['0', 'x'] => none
  | ['0', 'b'] => none
  | '0' :: 'x' :: rest => digitsValue 16 0 rest
  | '0' :: 'b' :: rest => digitsValue 2 0 rest
  | text => digitsValue 10 0 text

/-- A literal of a given width. -/
def sizedLiteral (bits : Nat) (text : List Char) : Except AsmError (BitVec bits) :=
  match literalValue text with
  | none => .error .badOperand
  | some n => if n < 2 ^ bits then .ok (BitVec.ofNat bits n) else .error (.literalTooWide n bits)

/-- A command operand: one of the four symbols or an 8-bit literal (30_encoding R75, R76). -/
def commandOperand (text : List Char) : Except AsmError Byte :=
  if text = "CHN_1".toList then .ok (cmdCode .chn1)
  else if text = "CHN_2".toList then .ok (cmdCode .chn2)
  else if text = "CHN_ALL".toList then .ok (cmdCode .chnAll)
  else if text = "RESET".toList then .ok (cmdCode .reset)
  else sizedLiteral 8 text

/-- The text without the spaces at its two ends. -/
def trimSpaces (text : List Char) : List Char :=
  ((text.dropWhile (· = ' ')).reverse.dropWhile (· = ' ')).reverse

/-- The parts of a text between its commas. -/
def splitCommas : List Char → List (List Char)
  | [] => [[]]
  | ch :: rest =>
    match splitCommas rest with
    | [] => [[ch]]
    | part :: parts => if ch = ',' then [] :: part :: parts else (ch :: part) :: parts

/-- The operands that follow a mnemonic. -/
def operandTexts (text : List Char) : List (List Char) :=
  if trimSpaces text = [] then [] else (splitCommas text).map trimSpaces

/-- The request a line stands for (30_encoding R75). -/
def assemble (line : List Char) : Except AsmError Instr :=
  let body := trimSpaces line
  let name := body.takeWhile (· ≠ ' ')
  let args := operandTexts (body.dropWhile (· ≠ ' '))
  if name = "DAC.INIT".toList then
    match args with
    | [] => .ok .dacInit
    | _ => .error .wrongOperandCount
  else if name = "DAC.WRITE".toList then
    match args with
    | [c, v] =>
      match commandOperand c, sizedLiteral 16 v with
      | .ok c, .ok v => .ok (requestDacWrite c v)
      | .error e, _ => .error e
      | _, .error e => .error e
    | _ => .error .wrongOperandCount
  else if name = "SW.INIT".toList then
    match args with
    | [] => .ok .swInit
    | _ => .error .wrongOperandCount
  else if name = "SW.WRITE".toList then
    match args with
    | [m] =>
      match sizedLiteral 8 m with
      | .ok m => .ok (.swWrite m)
      | .error e => .error e
    | _ => .error .wrongOperandCount
  else .error .unknownMnemonic

end Sys2Proof.Machine
end

