-- ==== Sys2Proof/Machine/Interfaces.lean ====
section
/-! DEFINITION. The three interfaces the block consumes (spec 20_memory R40 to R42) and the calls on them that
each event of the block stands for (R43). -/

namespace Sys2Proof.Machine

/-- The operations the bus transport, the digital I/O and the timing service offer. A line is named by its
identifier, a parameter. -/
inductive Call where
  /-- Bus transport: configure(clock rate, clock mode, bit order), alone. -/
  | configure (cfg : BusCfg)
  /-- Bus transport: begin-transaction(config). -/
  | beginTransaction (cfg : BusCfg)
  /-- Bus transport: end-transaction(). -/
  | endTransaction
  /-- Bus transport: transfer(byte), which answers the received byte. -/
  | transferByte (b : Byte)
  /-- Bus transport: select-line set(identifier, level). -/
  | selectLineSet (id : Nat) (level : Level)
  /-- Digital I/O: set a named line to output mode. -/
  | setOutput (id : Nat)
  /-- Digital I/O: drive a named line high or low. -/
  | driveLine (id : Nat) (level : Level)
  /-- Timing service: block for this many microseconds. -/
  | blockMicros (n : Nat)
  deriving DecidableEq, Repr

/-- The calls an event may stand for: driving a select line is one event whichever of two interfaces performs
it (20_memory R43, 90_conflicts C4). -/
def Event.calls (p : Params) : Event → List Call
  | .pinOutput d => [.setOutput (p.csOf d)]
  | .csSet d l => [.selectLineSet (p.csOf d) l, .driveLine (p.csOf d) l]
  | .busBegin cfg => [.beginTransaction cfg]
  | .busEnd => [.endTransaction]
  | .transfer b => [.transferByte b]
  | .wait => [.blockMicros p.settle]

end Sys2Proof.Machine
end

