-- ==== Sys2Proof/Machine/Observe.lean ====
section
/-! DEFINITION. What is observed of a run: the frames each device receives, read off the trace (spec 10_state
R28), the level of a select line (R23), which devices a byte reaches (20_memory R44), and the projections and
counts of an event list in which the laws of 42_cs_sequencer are stated (R117, R120, R122, R126). Nothing in the
block reads any of these (10_state R28). -/

namespace Sys2Proof.Machine

/-- The electrical level of a select line where the spec gives it one: `cs[d]` once the line is an output
(10_state R23). In every other case there is none to be had. -/
def lineLevel (d : Dev) (s : State) : Option Level :=
  if s.oe.get d then s.cs.get d else none

/-- The devices whose select line is Low: where a transferred byte goes (20_memory R44; log entry 16). -/
def listeners (s : State) : List Dev :=
  [Dev.dac, Dev.sw].filter fun d => s.cs.get d = some .low

/-- The reader of the trace for one device: the frames closed so far, and the bytes since the falling edge when
the line is Low (10_state R28). A byte outside every such span belongs to no frame
(log entry 18). -/
def scanEvent (d : Dev) (acc : List (List Byte) × Option (List Byte)) (e : Event) :
    List (List Byte) × Option (List Byte) :=
  match e with
  | .csSet d' .low => if d' = d then (acc.1, some (acc.2.getD [])) else acc
  | .csSet d' .high =>
    if d' = d then
      match acc.2 with
      | some f => (acc.1 ++ [f], none)
      | none => acc
    else acc
  | .transfer b => (acc.1, acc.2.map (· ++ [b]))
  | _ => acc

/-- The reader after a whole trace. -/
def scanTrace (d : Dev) (t : List Event) : List (List Byte) × Option (List Byte) :=
  t.foldl (scanEvent d) ([], none)

/-- `frames(d)`: what device `d` has received (10_state R28). -/
def frames (d : Dev) (t : List Event) : List (List Byte) := (scanTrace d t).1

/-- The bytes since the falling edge of `d`, none when its line is not Low. -/
def openFrame (d : Dev) (t : List Event) : Option (List Byte) := (scanTrace d t).2

/-- How one event changes the level last commanded on line `d`. -/
def lineStep (d : Dev) (l : Option Level) (e : Event) : Option Level :=
  match e with
  | .csSet d' l' => if d' = d then some l' else l
  | _ => l

/-- The level last commanded on line `d`, none before any (10_state R23). -/
def lineAfter (d : Dev) (t : List Event) : Option Level := t.foldl (lineStep d) none

/-- How one event changes the transaction the bus is in. -/
def busEventStep (b : Option BusCfg) (e : Event) : Option BusCfg :=
  match e with
  | .busBegin cfg => some cfg
  | .busEnd => none
  | _ => b

/-- The configuration of the transaction the bus is in, none between `BusEnd` and `BusBegin` (10_state R26). -/
def busAfter (t : List Event) : Option BusCfg := t.foldl busEventStep none

/-- The bytes of the transfers of a list, in order. -/
def bytesOf (t : List Event) : List Byte :=
  t.filterMap fun e => match e with
    | .transfer b => some b
    | _ => none

/-- How many `BusBegin` events a list has (42_cs_sequencer R126 law 8). -/
def beginCount (t : List Event) : Nat :=
  t.countP fun e => match e with
    | .busBegin _ => true
    | _ => false

/-- How many `BusEnd` events a list has. -/
def endCount (t : List Event) : Nat :=
  t.countP fun e => match e with
    | .busEnd => true
    | _ => false

/-- How many `Wait` events a list has. -/
def waitCount (t : List Event) : Nat :=
  t.countP fun e => match e with
    | .wait => true
    | _ => false

/-- The least time, in microseconds, that the waits of a list take: a lower bound and nothing more
(42_cs_sequencer R120, 70_reset_and_hazards R159). -/
def waitMicros (p : Params) (t : List Event) : Nat := waitCount t * p.settle

/-- The list without its waits (42_cs_sequencer R121). -/
def withoutWaits (t : List Event) : List Event :=
  t.filter fun e => match e with
    | .wait => false
    | _ => true

/-- The edges of line `d` and the transfers of a list (42_cs_sequencer R117, 95_test_vectors V6). -/
def edgesAndBytes (d : Dev) (t : List Event) : List Event :=
  t.filter fun e => match e with
    | .csSet d' _ => d' = d
    | .transfer _ => true
    | _ => false

/-- The edges of all lines and the bus events of a list (42_cs_sequencer R123). -/
def edgesAndBus (t : List Event) : List Event :=
  t.filter fun e => match e with
    | .csSet _ _ => true
    | .busBegin _ => true
    | .busEnd => true
    | _ => false

/-- The event names the select line of driver `d`. -/
def Event.names (e : Event) (d : Dev) : Bool :=
  match e with
  | .pinOutput d' => d' = d
  | .csSet d' _ => d' = d
  | .busBegin _ => false
  | .busEnd => false
  | .transfer _ => false
  | .wait => false

end Sys2Proof.Machine
end

