-- ==== Sys2Proof/Safety.lean ====
section
/-! DEFINITION. What claims are stated in: the laws that hold of every run (spec 42_cs_sequencer R126, with
10_state R23, R24), as a predicate on one state, in the middle of an operation as well as between two. -/

namespace Sys2Proof.Safety

open Sys2Proof.Machine

/-- A claim about a run is a claim about the hardware only if no request of it was refused (10_state R37). -/
def SpeaksOfHardware (s : State) : Prop := s.refusedSeen = false

/-- Law 4: each transfer lies in the select span of one device, and inside a bus transaction with that device's
configuration: at the point where it stands, the last level commanded on the line is Low and the bus was begun
with `cfg_of(d)` and not yet ended. -/
def TransfersScoped (p : Params) (t : List Event) : Prop :=
  ∀ before b after, t = before ++ Event.transfer b :: after →
    ∃ d, lineAfter d before = some .low ∧ busAfter before = some (p.cfg d)

/-- The laws that hold whenever the sequencer is idle. -/
structure IdleLaws (p : Params) (s : State) : Prop where
  /-- Law 1, a driver that is Ready (and the invariant of 10_state R24); its device has then received a frame. -/
  ready : ∀ d, s.st.get d = .ready →
    s.oe.get d = true ∧ s.cs.get d = some .high ∧ frames d s.trace ≠ []
  /-- Law 1, a driver that is Uninitialized; its device has then received nothing. -/
  uninitialized : ∀ d, s.st.get d = .uninitialized →
    s.oe.get d = false ∧ s.cs.get d = none ∧ frames d s.trace = []
  /-- Law 2. -/
  busClosed : s.busOpen = false
  /-- The select-line state is what the trace says (10_state R23). -/
  lineTold : ∀ d, lineAfter d s.trace = s.cs.get d
  /-- A line is an output from its first `PinOutput` on (10_state R23). -/
  outputTold : ∀ d, s.oe.get d = true ↔ Event.pinOutput d ∈ s.trace
  /-- No transaction is open in the trace (10_state R26). -/
  busTold : busAfter s.trace = none
  /-- No frame is open in the trace. -/
  noOpenFrame : ∀ d, openFrame d s.trace = none
  /-- Law 4. -/
  bytesScoped : TransfersScoped p s.trace
  /-- Law 5, the DAC. -/
  dacFrames : ∀ f ∈ frames .dac s.trace, f.length = 3
  /-- Law 5, the switch bank. -/
  swFrames : ∀ f ∈ frames .sw s.trace, f.length = 1
  /-- Law 7, the DAC. -/
  dacFirst : ∀ f, (frames .dac s.trace).head? = some f → f = [0x14, 0x00, 0x01]
  /-- Law 7, the switch bank. -/
  swFirst : ∀ f, (frames .sw s.trace).head? = some f → f = [0x00]
  /-- Law 8, the two counts. -/
  paired : beginCount s.trace = endCount s.trace

/-- The machine is `k` events into an operation that was accepted in an idle, lawful state. -/
def Midway (p : Params) (op : Op) (k : Nat) (s : State) : Prop :=
  k < (steps p op).length ∧
    ∃ s0, IdleLaws p s0 ∧ refusalOf op s0 = none ∧
      s = { emitAll ((steps p op).take k) s0 with seq := .run op k }

/-- The invariant of the machine: the laws at Idle, and in the middle of an operation a state that comes from
lawful idleness by the first events of that operation. -/
def Lawful (p : Params) (s : State) : Prop :=
  match s.seq with
  | .idle => IdleLaws p s
  | .run op k => Midway p op k s

/-- The operations that a list of inputs asks for, in order; an environment's move asks for none. -/
def opsOf : List Input → List Op
  | [] => []
  | .call w :: rest => opOf (decode w) :: opsOf rest
  | .start w :: rest => opOf (decode w) :: opsOf rest
  | .env _ :: rest => opsOf rest

/-- Those of a list of operations that are accepted one after the other, by the table of 42_cs_sequencer R111:
every init, and a write whose driver is Ready by then. -/
def acceptedOps : PerDev DriverState → List Op → List Op
  | _, [] => []
  | st, op :: ops =>
    if op.isInit then op :: acceptedOps (st.set op.dev .ready) ops
    else if st.get op.dev = .ready then op :: acceptedOps st ops
    else acceptedOps st ops

/-- `n` steps of the machine. -/
def runSteps (n : Nat) (s : State) : Host.Outcome State Fault Refusal := Host.Core.run Sys2Proof.core n s

end Sys2Proof.Safety
end

