-- ==== Sys2Proof/Certificates/Slice0/Obligations.lean ====
section
/-! DEFINITION. The statements for the provers, each a rule of the spec or a law that follows from its rules. -/

open Sys2Proof Sys2Proof.Machine Sys2Proof.Safety

/-! ## The encoders -/

/-- 30_encoding R64: the two data bytes are the two slices of the value, every value is accepted and sent as these
two bytes with nothing else done to it, and different values give different pairs. -/
def Obligations.ValueSplitsIntoItsTwoBytes : Prop :=
  (∀ v : Half,
    hiByte v = (v >>> 8).setWidth 8 ∧ hiByte v = v.extractLsb' 8 8 ∧
    loByte v = (v &&& 0x00FF#16).setWidth 8 ∧ loByte v = v.extractLsb' 0 8) ∧
  (∀ v w : Half, hiByte v = hiByte w → loByte v = loByte w → v = w) ∧
  (∀ (c : Byte) (v : Half) (s : State), s.seq = .idle → s.st.get .dac = .ready →
    ∃ t es, exec (.dacWrite c v) s = .next t ∧ t.trace = s.trace ++ es ∧ bytesOf es = [c, hiByte v, loByte v])

/-- 40_dac_encoder R88: the split in arithmetic. -/
def Obligations.SplitIsDivisionBy256 : Prop :=
  (∀ v : Half,
    (hiByte v).toNat = v.toNat / 256 ∧ (loByte v).toNat = v.toNat % 256 ∧
    (hiByte v).toNat * 256 + (loByte v).toNat = v.toNat) ∧
  (∀ v w : Half, v.extractLsb' 8 8 = w.extractLsb' 8 8 → hiByte v = hiByte w) ∧
  (∀ v w : Half, v.extractLsb' 0 8 = w.extractLsb' 0 8 → loByte v = loByte w) ∧
  (hiByte 0#16 = 0#8 ∧ loByte 0#16 = 0#8) ∧ (hiByte 65535#16 = 255#8 ∧ loByte 65535#16 = 255#8) ∧
  (hiByte 256#16 = 1#8 ∧ loByte 256#16 = 0#8) ∧ (hiByte 255#16 = 0#8 ∧ loByte 255#16 = 255#8)

/-- 40_dac_encoder R80: the DAC frame encoder, defined on all inputs and giving each its own frame. -/
def Obligations.DacEncoderIsInjective : Prop :=
  (∀ (c : Byte) (v : Half), encDac c v = [c, (v >>> 8).setWidth 8, (v &&& 0x00FF#16).setWidth 8]) ∧
  (∀ (c c' : Byte) (v v' : Half), encDac c v = encDac c' v' → c = c' ∧ v = v') ∧
  encDacInit = [0x14#8, 0x00#8, 0x01#8]

/-- 30_encoding R61: where the three bytes stand in the 24-bit number `F`, for every command byte and so for
`CHN_1`, and the frame that `write(CHN_1, v)` produces. -/
def Obligations.DacFrameFields : Prop :=
  (∀ (c : Byte) (v : Half),
    frameNumber (encDac c v) = (dacWord c v).toNat ∧
    (dacWord c v).extractLsb' 16 8 = c ∧
    (dacWord c v).extractLsb' 8 8 = hiByte v ∧
    (dacWord c v).extractLsb' 0 8 = loByte v) ∧
  (∀ (v : Half) (s : State), s.seq = .idle → s.st.get .dac = .ready →
    ∃ t es, exec (.dacWriteChn1 v) s = .next t ∧ t.trace = s.trace ++ es ∧
      bytesOf es = [0x18#8, hiByte v, loByte v])

/-- 30_encoding R62: the one byte of a switch frame is the mask, unmodified. -/
def Obligations.SwitchFrameIsTheMask : Prop :=
  ∀ (m : Byte), frameNumber (encSw m) = m.toNat ∧
    ∀ (s : State), s.seq = .idle → s.st.get .sw = .ready →
      ∃ t es, exec (.swWrite m) s = .next t ∧ t.trace = s.trace ++ es ∧ bytesOf es = [m]

/-- 30_encoding R65: the command byte is the frame's first byte, listed or not, and the mask is the switch
frame's byte. -/
def Obligations.OperandBytesPassThrough : Prop :=
  (∀ (c : Byte) (v : Half) (s : State), s.seq = .idle → s.st.get .dac = .ready →
    ∃ t es, exec (.dacWrite c v) s = .next t ∧ t.trace = s.trace ++ es ∧ (bytesOf es).head? = some c) ∧
  (∀ (k : Command) (v : Half), (encDac (cmdCode k) v).head? = some (cmdCode k)) ∧
  (∀ (m : Byte) (s : State), s.seq = .idle → s.st.get .sw = .ready →
    ∃ t es, exec (.swWrite m) s = .next t ∧ t.trace = s.trace ++ es ∧ bytesOf es = [m])

/-- 30_encoding R67 and R68: both init frames are constants, whatever the state before; `0x14` is none of the
four codes. -/
def Obligations.InitFramesAreConstant : Prop :=
  (∀ (s : State), s.seq = .idle →
    ∃ t es, exec .dacInit s = .next t ∧ t.trace = s.trace ++ es ∧ bytesOf es = [0x14#8, 0x00#8, 0x01#8]) ∧
  frameNumber encDacInit = 0x140001 ∧ (∀ k : Command, cmdCode k ≠ dacInitCmd) ∧ dacInitCmd = 0x14#8 ∧
  (∀ (s : State), s.seq = .idle →
    ∃ t es, exec .swInit s = .next t ∧ t.trace = s.trace ++ es ∧ bytesOf es = [0x00#8])

/-- 30_encoding R77: a DAC frame as a number, `c * 65536 + v`, and that every 24-bit number is one frame. -/
def Obligations.DacFrameNumberIsBijective : Prop :=
  (∀ (c : Byte) (v : Half), frameNumber (encDac c v) = c.toNat * 65536 + v.toNat) ∧
  (∀ F : BitVec 24, ∃ c v, frameNumber (encDac c v) = F.toNat ∧ c = F.extractLsb' 16 8 ∧ v = F.extractLsb' 0 16 ∧
    ∀ c' v', frameNumber (encDac c' v') = F.toNat → c' = c ∧ v' = v) ∧
  (∀ m m' : Byte, encSw m = encSw m' → m = m')

/-- 20_memory R48: with the most significant bit first, the bits of a DAC frame are those of its number from the
top; the other order is the mirror image of each byte. -/
def Obligations.SerialBitsFollowTheBitOrder : Prop :=
  (∀ (c : Byte) (v : Half) (i : Nat), i < 24 →
    (frameBits .msbFirst (encDac c v))[i]? = some ((dacWord c v).getLsbD (23 - i))) ∧
  (∀ b : Byte, serialBits .lsbFirst b = (serialBits .msbFirst b).reverse) ∧
  (∀ (o : BitOrder) (bytes : List Byte), (frameBits o bytes).length = 8 * bytes.length)

/-! ## Encoding and decoding -/

/-- 30_encoding R73, R78: decoding the word of a well-formed instruction gives it back, every operand bit. -/
def Obligations.DecodeInvertsEncode : Prop :=
  ∀ i : Instr, i.WellFormed → decode (encode i) = i

/-- 30_encoding R73, R77, R78: what is decoded is well-formed, encoding it gives the word back but for ignored
bits, and two request words are the same request exactly when they differ in ignored bits only. -/
def Obligations.EncodeInvertsDecode : Prop :=
  (∀ w : Code, (decode w).WellFormed) ∧
  (∀ q : BitVec 26, encode (decode (.req26 q)) = .req26 (clearIgnored q)) ∧
  (∀ f : BitVec 24, encode (decode (.dac24 f)) = .dac24 f) ∧
  (∀ m : BitVec 8, encode (decode (.sw8 m)) = .sw8 m) ∧
  (∀ q r : BitVec 26, decode (.req26 q) = decode (.req26 r) ↔ clearIgnored q = clearIgnored r)

/-- 30_encoding R78: each word decodes by the masks and matches of the opcode table, the larger mask first. -/
def Obligations.DecodeFollowsMasksAndMatches : Prop :=
  (∀ q : BitVec 26,
    (q &&& 0x3000000#26 = 0x0000000#26 ↔ decode (.req26 q) = .dacInit) ∧
    (q &&& 0x3FF0000#26 = 0x1180000#26 ↔ ∃ v, decode (.req26 q) = .dacWriteChn1 v) ∧
    (q &&& 0x3FF0000#26 = 0x1190000#26 ↔ ∃ v, decode (.req26 q) = .dacWriteChn2 v) ∧
    (q &&& 0x3FF0000#26 = 0x1F80000#26 ↔ ∃ v, decode (.req26 q) = .dacWriteChnAll v) ∧
    (q &&& 0x3FF0000#26 = 0x12F0000#26 ↔ ∃ v, decode (.req26 q) = .dacWriteReset v) ∧
    (q &&& 0x3000000#26 = 0x1000000#26 ∧ q &&& 0x3FF0000#26 ≠ 0x1180000#26 ∧ q &&& 0x3FF0000#26 ≠ 0x1190000#26 ∧
      q &&& 0x3FF0000#26 ≠ 0x1F80000#26 ∧ q &&& 0x3FF0000#26 ≠ 0x12F0000#26 ↔
      ∃ c v, decode (.req26 q) = .dacWrite c v) ∧
    (q &&& 0x3000000#26 = 0x2000000#26 ↔ decode (.req26 q) = .swInit) ∧
    (q &&& 0x3000000#26 = 0x3000000#26 ↔ ∃ m, decode (.req26 q) = .swWrite m)) ∧
  (∀ f : BitVec 24,
    (f &&& 0xFFFFFF#24 = 0x140001#24 ↔ decode (.dac24 f) = .frameDacInit) ∧
    (f &&& 0xFF0000#24 = 0x180000#24 ↔ ∃ v, decode (.dac24 f) = .frameDacWriteChn1 v) ∧
    (f &&& 0xFF0000#24 = 0x190000#24 ↔ ∃ v, decode (.dac24 f) = .frameDacWriteChn2 v) ∧
    (f &&& 0xFF0000#24 = 0xF80000#24 ↔ ∃ v, decode (.dac24 f) = .frameDacWriteChnAll v) ∧
    (f &&& 0xFF0000#24 = 0x2F0000#24 ↔ ∃ v, decode (.dac24 f) = .frameDacWriteReset v) ∧
    (f &&& 0xFFFFFF#24 ≠ 0x140001#24 ∧ f &&& 0xFF0000#24 ≠ 0x180000#24 ∧ f &&& 0xFF0000#24 ≠ 0x190000#24 ∧
      f &&& 0xFF0000#24 ≠ 0xF80000#24 ∧ f &&& 0xFF0000#24 ≠ 0x2F0000#24 ↔
      ∃ c v, decode (.dac24 f) = .frameDacWrite c v)) ∧
  (∀ f : BitVec 8, (f &&& 0xFF#8 = 0x00#8 ↔ decode (.sw8 f) = .frameSwInit) ∧
    (f &&& 0xFF#8 ≠ 0x00#8 ↔ ∃ m, decode (.sw8 f) = .frameSwWrite m))

/-- 30_encoding R72, R73, R78: `readings` lists exactly the instructions whose word it is (but for the ignored
bits of a request), the decoded one first; for the two init frames there are two readings. -/
def Obligations.ReadingsAreAllReadings : Prop :=
  (∀ (q : BitVec 26) (i : Instr), i ∈ readings (.req26 q) ↔ encode i = .req26 (clearIgnored q)) ∧
  (∀ (f : BitVec 24) (i : Instr), i ∈ readings (.dac24 f) ↔ encode i = .dac24 f) ∧
  (∀ (f : BitVec 8) (i : Instr), i ∈ readings (.sw8 f) ↔ encode i = .sw8 f) ∧
  (∀ w : Code, (readings w).head? = some (decode w)) ∧
  readings (.dac24 0x140001#24) = [.frameDacInit, .frameDacWrite 0x14#8 0x0001#16] ∧
  readings (.sw8 0x00#8) = [.frameSwInit, .frameSwWrite 0x00#8]

/-- Request words and frames of 95_test_vectors T1, T2, T3, T4, P1, P2 and P3, decoded. Where a word has two readings
the larger mask of 30_encoding R78 is decoded (log entry 17): so `0x140001`, to which T3 gives the one and P1 the
other, decodes to the init frame. -/
def Obligations.KnownWordsDecode : Prop :=
  decode (.req26 0x0000000#26) = .dacInit ∧
  decode (.req26 0x1181234#26) = .dacWriteChn1 0x1234#16 ∧
  decode (.req26 0x119ABCD#26) = .dacWriteChn2 0xABCD#16 ∧
  decode (.req26 0x1F87FFF#26) = .dacWriteChnAll 0x7FFF#16 ∧
  decode (.req26 0x12F1234#26) = .dacWriteReset 0x1234#16 ∧
  decode (.req26 0x2000000#26) = .swInit ∧
  decode (.req26 0x3ABCDA5#26) = .swWrite 0xA5#8 ∧
  decode (.dac24 0x1A5555#24) = .frameDacWrite 0x1A#8 0x5555#16 ∧
  decode (.dac24 0x188000#24) = .frameDacWriteChn1 0x8000#16 ∧
  decode (.dac24 0x140001#24) = .frameDacInit ∧
  decode (.sw8 0x81#8) = .frameSwWrite 0x81#8

/-- 20_memory R50, 30_encoding R61 to R63: bytes of another number than the format's are rejected by name; the
bytes of a frame decode to what its number decodes to; so do a row's bits, laid out in bytes. -/
def Obligations.ByteDecoderAgreesWithWords : Prop :=
  (∀ (fmt : Format) (bytes : List Byte), bytes.length ≠ formatBytes fmt →
    decodeBytes fmt bytes = .error (.wrongLength fmt bytes.length)) ∧
  (∀ (c : Byte) (v : Half), decodeBytes .dac24 (encDac c v) = .ok (decode (.dac24 (dacWord c v)))) ∧
  (∀ m : Byte, decodeBytes .sw8 (encSw m) = .ok (decode (.sw8 m))) ∧
  (∀ q : BitVec 26, decodeTableWord 32 q.toNat = some (decode (.req26 q))) ∧
  (∀ f : BitVec 24, decodeTableWord 24 f.toNat = some (decode (.dac24 f))) ∧
  (∀ f : BitVec 8, decodeTableWord 8 f.toNat = some (decode (.sw8 f)))

/-- 30_encoding R75: a literal that fits its width is the operand, and one that does not is a syntax error. -/
def Obligations.LiteralsMustFit : Prop :=
  ∀ (bits : Nat) (text : List Char) (n : Nat), literalValue text = some n →
    (n < 2 ^ bits → ∃ x : BitVec bits, sizedLiteral bits text = .ok x ∧ x.toNat = n) ∧
    (2 ^ bits ≤ n → sizedLiteral bits text = .error (.literalTooWide n bits))

/-! ## What each operation does -/

/-- 40_dac_encoder R81. The clauses on the first two events, on the filled slots and on the last event are the
spec's own decisions D5, D8 and D9 (log entry 11); the slots are any the parameters choose. -/
def Obligations.DacInitCompletes : Prop :=
  ∀ s : State, s.seq = .idle →
    exec .dacInit s = .next { s with
      st := s.st.set .dac .ready
      oe := s.oe.set .dac true
      cs := s.cs.set .dac (some .high)
      busCfg := some (Config.params.cfg .dac)
      busOpen := false
      trace := s.trace ++
        ([.pinOutput .dac, .csSet .dac .high, .busBegin (Config.params.cfg .dac)]
          ++ slot Config.params.initWaitsDac.w0 ++ [.csSet .dac .low] ++ slot Config.params.initWaitsDac.w1
          ++ [.transfer 0x14#8, .transfer 0x00#8, .transfer 0x01#8]
          ++ slot Config.params.initWaitsDac.w2 ++ [.csSet .dac .high] ++ slot Config.params.initWaitsDac.w3
          ++ [.busEnd]) }

/-- 40_dac_encoder R82, R87: every command byte, every value. The condition on the driver is the spec's
decision D6. -/
def Obligations.DacWriteCompletes : Prop :=
  ∀ (c : Byte) (v : Half) (s : State), s.seq = .idle → s.st.get .dac = .ready →
    exec (.dacWrite c v) s = .next { s with
      cs := s.cs.set .dac (some .high)
      busCfg := some (Config.params.cfg .dac)
      busOpen := false
      trace := s.trace ++
        [.csSet .dac .low, .busBegin (Config.params.cfg .dac), .transfer c, .transfer ((v >>> 8).setWidth 8),
          .transfer ((v &&& 0x00FF#16).setWidth 8), .wait, .csSet .dac .high, .busEnd] }

/-- 40_dac_encoder R83 to R86: the four named command codes, each with its frame and its numbers. -/
def Obligations.NamedDacWritesComplete : Prop :=
  ∀ (v : Half) (s : State), s.seq = .idle → s.st.get .dac = .ready →
    let after (c : Byte) : State := { s with
      cs := s.cs.set .dac (some .high)
      busCfg := some (Config.params.cfg .dac)
      busOpen := false
      trace := s.trace ++
        [.csSet .dac .low, .busBegin (Config.params.cfg .dac), .transfer c, .transfer ((v >>> 8).setWidth 8),
          .transfer ((v &&& 0x00FF#16).setWidth 8), .wait, .csSet .dac .high, .busEnd] }
    (exec (.dacWriteChn1 v) s = .next (after 0b00011000#8) ∧
      frameNumber (encDac 0x18#8 v) = 0x180000 + v.toNat ∧
      (encode (.dacWriteChn1 v)).toNat = 0x1180000 + v.toNat) ∧
    (exec (.dacWriteChn2 v) s = .next (after 0b00011001#8) ∧
      frameNumber (encDac 0x19#8 v) = 0x190000 + v.toNat ∧
      (encode (.dacWriteChn2 v)).toNat = 0x1190000 + v.toNat) ∧
    (exec (.dacWriteChnAll v) s = .next (after 0b11111000#8) ∧
      frameNumber (encDac 0xF8#8 v) = 0xF80000 + v.toNat ∧
      (encode (.dacWriteChnAll v)).toNat = 0x1F80000 + v.toNat) ∧
    (exec (.dacWriteReset v) s = .next (after 0b00101111#8) ∧
      frameNumber (encDac 0x2F#8 v) = 0x2F0000 + v.toNat ∧
      (encode (.dacWriteReset v)).toNat = 0x12F0000 + v.toNat)

/-- 41_switch_encoder R101. The clauses on the first two events and on the filled slots are the spec's own
decisions D5 and D8 (log entry 11). -/
def Obligations.SwitchInitCompletes : Prop :=
  ∀ s : State, s.seq = .idle →
    exec .swInit s = .next { s with
      st := s.st.set .sw .ready
      oe := s.oe.set .sw true
      cs := s.cs.set .sw (some .high)
      busCfg := some (Config.params.cfg .sw)
      busOpen := false
      trace := s.trace ++
        ([.pinOutput .sw, .csSet .sw .high, .busBegin (Config.params.cfg .sw)]
          ++ slot Config.params.initWaitsSw.w0 ++ [.csSet .sw .low] ++ slot Config.params.initWaitsSw.w1
          ++ [.transfer 0x00#8]
          ++ slot Config.params.initWaitsSw.w2 ++ [.csSet .sw .high] ++ slot Config.params.initWaitsSw.w3
          ++ [.busEnd]) }

/-- 41_switch_encoder R102: every mask. The condition on the driver is the spec's decision D6. -/
def Obligations.SwitchWriteCompletes : Prop :=
  ∀ (m : Byte) (s : State), s.seq = .idle → s.st.get .sw = .ready →
    exec (.swWrite m) s = .next { s with
      cs := s.cs.set .sw (some .high)
      busCfg := some (Config.params.cfg .sw)
      busOpen := false
      trace := s.trace ++
        [.busBegin (Config.params.cfg .sw), .csSet .sw .low, .wait, .transfer m, .wait, .csSet .sw .high, .busEnd] }

/-- The frame rows of the DAC and switch writes run the transaction that puts their frame on the bus. That a
frame is executed as an operation is the model's choice (log entry 10). -/
def Obligations.WireWritesComplete : Prop :=
  (∀ (v : Half) (s : State), s.seq = .idle → s.st.get .dac = .ready →
    let after (c : Byte) : State := { s with
      cs := s.cs.set .dac (some .high)
      busCfg := some (Config.params.cfg .dac)
      busOpen := false
      trace := s.trace ++
        [.csSet .dac .low, .busBegin (Config.params.cfg .dac), .transfer c, .transfer ((v >>> 8).setWidth 8),
          .transfer ((v &&& 0x00FF#16).setWidth 8), .wait, .csSet .dac .high, .busEnd] }
    (∀ c : Byte, exec (.frameDacWrite c v) s = .next (after c)) ∧
    exec (.frameDacWriteChn1 v) s = .next (after 0x18#8) ∧
    exec (.frameDacWriteChn2 v) s = .next (after 0x19#8) ∧
    exec (.frameDacWriteChnAll v) s = .next (after 0xF8#8) ∧
    exec (.frameDacWriteReset v) s = .next (after 0x2F#8)) ∧
  (∀ (m : Byte) (s : State), s.seq = .idle → s.st.get .sw = .ready →
    exec (.frameSwWrite m) s = .next { s with
      cs := s.cs.set .sw (some .high)
      busCfg := some (Config.params.cfg .sw)
      busOpen := false
      trace := s.trace ++
        [.busBegin (Config.params.cfg .sw), .csSet .sw .low, .wait, .transfer m, .wait, .csSet .sw .high, .busEnd] })

/-- The two init frames run the init transactions (the model's choice, log entry 10; the step lists hold the
spec's decisions D5, D8 and D9, log entry 11). -/
def Obligations.WireInitsComplete : Prop :=
  ∀ s : State, s.seq = .idle →
    exec .frameDacInit s = .next { s with
      st := s.st.set .dac .ready
      oe := s.oe.set .dac true
      cs := s.cs.set .dac (some .high)
      busCfg := some (Config.params.cfg .dac)
      busOpen := false
      trace := s.trace ++ dacInitSteps Config.params } ∧
    exec .frameSwInit s = .next { s with
      st := s.st.set .sw .ready
      oe := s.oe.set .sw true
      cs := s.cs.set .sw (some .high)
      busCfg := some (Config.params.cfg .sw)
      busOpen := false
      trace := s.trace ++ swInitSteps Config.params }

/-- 40_dac_encoder R87: a command byte that is none of the four is sent unchanged, is not refused, and leaves
the driver Ready. -/
def Obligations.UnlistedCommandIsSentUnchanged : Prop :=
  ∀ (c : Byte) (v : Half) (s : State), c ≠ 0x18#8 → c ≠ 0x19#8 → c ≠ 0xF8#8 → c ≠ 0x2F#8 →
    s.seq = .idle → s.st.get .dac = .ready →
    ∃ t es, exec (.dacWrite c v) s = .next t ∧ t.trace = s.trace ++ es ∧
      es = dacWriteSteps Config.params c v ∧ bytesOf es = [c, (v >>> 8).setWidth 8, (v &&& 0x00FF#16).setWidth 8] ∧
      t.st.get .dac = .ready

/-! ## Acceptance -/

/-- 42_cs_sequencer R113 (the spec's decision D6): a write whose driver is Uninitialized is refused, whatever
the other driver's state; this holds of every row that is a write. That a frame row takes the acceptance test of
an operation is the model's choice (log entry 10). -/
def Obligations.WriteBeforeInitIsRefused : Prop :=
  (∀ (c : Byte) (v : Half) (s : State), s.seq = .idle → s.st.get .dac = .uninitialized →
    ∀ i ∈ [Instr.dacWrite c v, .dacWriteChn1 v, .dacWriteChn2 v, .dacWriteChnAll v, .dacWriteReset v,
        .frameDacWrite c v, .frameDacWriteChn1 v, .frameDacWriteChn2 v, .frameDacWriteChnAll v, .frameDacWriteReset v],
      exec i s = .refused (.writeBeforeInit .dac)) ∧
  (∀ (m : Byte) (s : State), s.seq = .idle → s.st.get .sw = .uninitialized →
    ∀ i ∈ [Instr.swWrite m, .frameSwWrite m], exec i s = .refused (.writeBeforeInit .sw))

/-- 42_cs_sequencer R112, 60_exceptions R132 (the spec's decision D7): while an operation runs, every request is
refused as busy, also one that would be a write before init. That a frame row is refused like a request is the
model's choice (log entry 10). -/
def Obligations.RunningBlockIsBusy : Prop :=
  ∀ (i : Instr) (op : Op) (k : Nat) (s : State), s.seq = .run op k → exec i s = .refused .busy

/-- 60_exceptions R136 (the spec's decisions D6, D7 and D21): these are the only refusals. That the frame rows have
the refusals of operations, and that the two shared frames are read as the inits, which are never refused before
init, are the model's choices (log entry 10). -/
def Obligations.NothingElseIsRefused : Prop :=
  ∀ (i : Instr) (s : State) (r : Refusal), exec i s = .refused r →
    (r = .busy ∧ s.seq ≠ .idle) ∨
    (r = .writeBeforeInit .dac ∧ s.seq = .idle ∧ s.st.get .dac = .uninitialized ∧ (opOf i).dev = .dac ∧
      i ≠ .dacInit ∧ i ≠ .frameDacInit) ∨
    (r = .writeBeforeInit .sw ∧ s.seq = .idle ∧ s.st.get .sw = .uninitialized ∧ (opOf i).dev = .sw ∧
      i ≠ .swInit ∧ i ≠ .frameSwInit)

/-- 42_cs_sequencer R111: the transition table of the driver state machine, row by row, and that no step of the
machine leads back to Uninitialized. -/
def Obligations.DriverStateMachine : Prop :=
  (∀ s : State, s.seq = .idle →
    ∃ t, exec .dacInit s = .next t ∧ t.st.get .dac = .ready ∧ t.st.get .sw = s.st.get .sw) ∧
  (∀ s : State, s.seq = .idle →
    ∃ t, exec .swInit s = .next t ∧ t.st.get .sw = .ready ∧ t.st.get .dac = s.st.get .dac) ∧
  (∀ (c : Byte) (v : Half) (s : State), s.seq = .idle → s.st.get .dac = .ready →
    ∃ t, exec (.dacWrite c v) s = .next t ∧ t.st = s.st) ∧
  (∀ (m : Byte) (s : State), s.seq = .idle → s.st.get .sw = .ready →
    ∃ t, exec (.swWrite m) s = .next t ∧ t.st = s.st) ∧
  (∀ (c : Byte) (v : Half) (s : State), s.seq = .idle → s.st.get .dac = .uninitialized →
    exec (.dacWrite c v) s = .refused (.writeBeforeInit .dac)) ∧
  (∀ (m : Byte) (s : State), s.seq = .idle → s.st.get .sw = .uninitialized →
    exec (.swWrite m) s = .refused (.writeBeforeInit .sw)) ∧
  (∀ (s t : State) (d : Dev), step s = .next t → s.st.get d = .ready → t.st.get d = .ready)

/-- 42_cs_sequencer R114: an init is accepted in every driver state and emits the same events, with the bytes of
its frame, from every idle state; the two inits may come in either order; and a driver may be initialised and
used whatever the state of the other, which it leaves as it is. -/
def Obligations.InitsIgnoreTheState : Prop :=
  (∀ s s' : State, s.seq = .idle → s'.seq = .idle →
    ∃ t t' es, exec .dacInit s = .next t ∧ exec .dacInit s' = .next t' ∧
      t.trace = s.trace ++ es ∧ t'.trace = s'.trace ++ es ∧ bytesOf es = [0x14#8, 0x00#8, 0x01#8]) ∧
  (∀ s s' : State, s.seq = .idle → s'.seq = .idle →
    ∃ t t' es, exec .swInit s = .next t ∧ exec .swInit s' = .next t' ∧
      t.trace = s.trace ++ es ∧ t'.trace = s'.trace ++ es ∧ bytesOf es = [0x00#8]) ∧
  (∀ s : State, s.seq = .idle →
    ∃ a b a' b', exec .dacInit s = .next a ∧ exec .swInit a = .next b ∧
      exec .swInit s = .next a' ∧ exec .dacInit a' = .next b' ∧ b.st = b'.st ∧ b.oe = b'.oe ∧ b.cs = b'.cs) ∧
  (∀ (s : State) (c : Byte) (v : Half), s.seq = .idle →
    ∃ a b, exec .dacInit s = .next a ∧ exec (.dacWrite c v) a = .next b ∧ b.st.get .sw = s.st.get .sw) ∧
  (∀ (s : State) (m : Byte), s.seq = .idle →
    ∃ a b, exec .swInit s = .next a ∧ exec (.swWrite m) a = .next b ∧ b.st.get .dac = s.st.get .dac)

/-- 10_state R36, 70_reset_and_hazards R150, R152: the state after reset, in which the block waits and accepts
the inits and nothing else. All values but those of `st` are the spec's decision D4; `inputs` is the model's
(log entry 6), and so is that the two shared frames are accepted, as the inits (log entry 10). -/
def Obligations.ResetWaitsForAnInit : Prop :=
  State.reset.st = ⟨.uninitialized, .uninitialized⟩ ∧ State.reset.oe = ⟨false, false⟩ ∧
  State.reset.cs = ⟨none, none⟩ ∧ State.reset.seq = .idle ∧ State.reset.busCfg = none ∧
  State.reset.busOpen = false ∧ State.reset.trace = [] ∧ State.reset.refusedSeen = false ∧
  step State.reset = .next State.reset ∧
  (∀ i : Instr, (∃ t, exec i State.reset = .next t) ↔
    i = .dacInit ∨ i = .swInit ∨ i = .frameDacInit ∨ i = .frameSwInit)

/-! ## What operations leave alone -/

/-- 40_dac_encoder R89, 41_switch_encoder R104, 42_cs_sequencer R119: an operation leaves the other driver's
state, output mode and line level alone, names its line in no event and never begins the bus with its
configuration. -/
def Obligations.OperationsLeaveTheOtherDriverAlone : Prop :=
  ∀ (i : Instr) (s t : State) (d : Dev), exec i s = .next t → d ≠ (opOf i).dev →
    t.st.get d = s.st.get d ∧ t.oe.get d = s.oe.get d ∧ t.cs.get d = s.cs.get d ∧
    ∃ es, t.trace = s.trace ++ es ∧ ∀ e ∈ es, e.names d = false ∧ e ≠ .busBegin (Config.params.cfg d)

/-- The frame of all sixteen instructions (40_dac_encoder R81, R82; 41_switch_encoder R101, R102; 42_cs_sequencer
R122), the frame rows as the operations they name (log entry 10): beside the trace, `bus.cfg` and the own driver's
`st`, `oe` and `cs`, nothing changes; a write leaves `st` and `oe` alone; the bus is closed and left configured for
the driver. That it is closed after a `DAC.INIT` is the spec's decision D9 (log entry 11). -/
def Obligations.InstructionFrame : Prop :=
  ∀ (i : Instr) (s t : State), exec i s = .next t →
    t.seq = s.seq ∧ t.inputs = s.inputs ∧ t.refusedSeen = s.refusedSeen ∧ t.busOpen = false ∧
    t.busCfg = some (Config.params.cfg (opOf i).dev) ∧
    (∀ d, d ≠ (opOf i).dev →
      t.st.get d = s.st.get d ∧ t.oe.get d = s.oe.get d ∧ t.cs.get d = s.cs.get d) ∧
    (i ≠ .dacInit → i ≠ .frameDacInit → t.st.get .dac = s.st.get .dac ∧ t.oe.get .dac = s.oe.get .dac) ∧
    (i ≠ .swInit → i ≠ .frameSwInit → t.st.get .sw = s.st.get .sw ∧ t.oe.get .sw = s.oe.get .sw) ∧
    (∃ es, t.trace = s.trace ++ es)

/-- 10_state R26, 20_memory R59: nothing reads `bus.cfg`. Whatever the environment left there, an operation has
the same outcome, and a run of any length from any state, in the middle of an operation too, differs in `bus.cfg`
alone. -/
def Obligations.BusConfigurationIsNeverRead : Prop :=
  (∀ (i : Instr) (s : State) (cfg : Option BusCfg),
    (∀ t, exec i s = .next t → exec i { s with busCfg := cfg } = .next t) ∧
    (∀ r, exec i s = .refused r → exec i { s with busCfg := cfg } = .refused r)) ∧
  (∀ (n : Nat) (s t : State) (cfg : Option BusCfg), runSteps n s = .next t →
    ∃ c, runSteps n { s with busCfg := cfg } = .next { t with busCfg := c })

/-- 20_memory R58: the bytes (and the events) of a request are a function of the request alone. -/
def Obligations.FramesAreFresh : Prop :=
  ∀ (i : Instr) (s s' t t' : State), exec i s = .next t → exec i s' = .next t' →
    ∃ es, t.trace = s.trace ++ es ∧ t'.trace = s'.trace ++ es ∧ bytesOf es = frameOf (opOf i)

/-! ## The sequencer -/

/-- 42_cs_sequencer R117: the level sequence of each operation on its line, with the transfers inside the active
span; the line is High before the falling edge of a write, and High after every operation. -/
def Obligations.SelectLineSequence : Prop :=
  (∀ p : Params,
    edgesAndBytes .dac (dacInitSteps p) =
      [.csSet .dac .high, .csSet .dac .low, .transfer 0x14#8, .transfer 0x00#8, .transfer 0x01#8, .csSet .dac .high]) ∧
  (∀ (p : Params) (c : Byte) (v : Half),
    edgesAndBytes .dac (dacWriteSteps p c v) =
      [.csSet .dac .low, .transfer c, .transfer (hiByte v), .transfer (loByte v), .csSet .dac .high]) ∧
  (∀ p : Params,
    edgesAndBytes .sw (swInitSteps p) =
      [.csSet .sw .high, .csSet .sw .low, .transfer 0x00#8, .csSet .sw .high]) ∧
  (∀ (p : Params) (m : Byte),
    edgesAndBytes .sw (swWriteSteps p m) = [.csSet .sw .low, .transfer m, .csSet .sw .high]) ∧
  (∀ (i : Instr) (s t : State), Lawful Config.params s → exec i s = .next t →
    ((opOf i).isInit = false → s.cs.get (opOf i).dev = some .high) ∧ t.cs.get (opOf i).dev = some .high)

/-- 42_cs_sequencer R123: the order of bus configuration and edges in each operation, and that the
configuration is in force at every transfer. -/
def Obligations.ConfigurationAndEdgeOrder : Prop :=
  ∀ p : Params,
    (∀ (c : Byte) (v : Half), edgesAndBus (dacWriteSteps p c v) =
      [.csSet .dac .low, .busBegin (p.cfg .dac), .csSet .dac .high, .busEnd]) ∧
    (∀ m : Byte, edgesAndBus (swWriteSteps p m) =
      [.busBegin (p.cfg .sw), .csSet .sw .low, .csSet .sw .high, .busEnd]) ∧
    edgesAndBus (dacInitSteps p) =
      [.csSet .dac .high, .busBegin (p.cfg .dac), .csSet .dac .low, .csSet .dac .high, .busEnd] ∧
    edgesAndBus (swInitSteps p) =
      [.csSet .sw .high, .busBegin (p.cfg .sw), .csSet .sw .low, .csSet .sw .high, .busEnd] ∧
    (∀ (op : Op) (before : List Event) (b : Byte) (after : List Event),
      steps p op = before ++ .transfer b :: after → busAfter before = some (p.cfg op.dev))

/-- 42_cs_sequencer R122, R126 law 8 (the spec's decision D9 for `DAC.INIT`): every operation begins the bus once
and ends it once, as its last event. -/
def Obligations.BusBeginsAndEndsArePaired : Prop :=
  (∀ (p : Params) (op : Op), beginCount (steps p op) = 1 ∧ endCount (steps p op) = 1 ∧
    (steps p op).getLast? = some .busEnd) ∧
  (∀ (i : Instr) (s t : State), exec i s = .next t →
    beginCount t.trace = beginCount s.trace + 1 ∧ endCount t.trace = endCount s.trace + 1)

/-- 42_cs_sequencer R121, 92_eei_decisions D8: whichever slots are filled, an init emits the same events but for
its waits, and as many waits as slots are filled. Of the events, `PinOutput` and the first `CsSet High` are the
spec's decision D5, and the `BusEnd` of `DAC.INIT` its decision D9 (log entry 11). -/
def Obligations.WaitSlotsOnlyAddWaits : Prop :=
  (∀ p : Params,
    withoutWaits (dacInitSteps p) =
      [.pinOutput .dac, .csSet .dac .high, .busBegin (p.cfg .dac), .csSet .dac .low,
        .transfer 0x14#8, .transfer 0x00#8, .transfer 0x01#8, .csSet .dac .high, .busEnd] ∧
    waitCount (dacInitSteps p) =
      p.initWaitsDac.w0.toNat + p.initWaitsDac.w1.toNat + p.initWaitsDac.w2.toNat + p.initWaitsDac.w3.toNat) ∧
  (∀ p : Params,
    withoutWaits (swInitSteps p) =
      [.pinOutput .sw, .csSet .sw .high, .busBegin (p.cfg .sw), .csSet .sw .low,
        .transfer 0x00#8, .csSet .sw .high, .busEnd] ∧
    waitCount (swInitSteps p) =
      p.initWaitsSw.w0.toNat + p.initWaitsSw.w1.toNat + p.initWaitsSw.w2.toNat + p.initWaitsSw.w3.toNat)

/-- 42_cs_sequencer R120, 70_reset_and_hazards R159: what the waits of the writes add up to, and that each wait
is at least a microsecond. -/
def Obligations.WritesWaitAtLeast : Prop :=
  (∀ (p : Params) (c : Byte) (v : Half), waitMicros p (dacWriteSteps p c v) = p.settle) ∧
  (∀ (p : Params) (m : Byte), waitMicros p (swWriteSteps p m) = 2 * p.settle) ∧
  (∀ es : List Event, waitCount es ≤ waitMicros Config.params es)

/-- 20_memory R46 and R50: the bytes of each operation, in order, under every choice of parameters, three to the
DAC and one to the switch bank. -/
def Obligations.BytesOnTheBus : Prop :=
  ∀ p : Params,
    (∀ (c : Byte) (v : Half), bytesOf (dacWriteSteps p c v) = [c, v.extractLsb' 8 8, v.extractLsb' 0 8]) ∧
    (∀ op : Op, bytesOf (steps p op) = frameOf op) ∧
    (∀ op : Op, op.dev = .dac → (bytesOf (steps p op)).length = 3) ∧
    (∀ op : Op, op.dev = .sw → (bytesOf (steps p op)).length = 1)

/-- 20_memory R52: one request gives exactly one frame, to its own device, and the same request again gives the
same frame again. -/
def Obligations.OneRequestOneFrame : Prop :=
  ∀ (i : Instr) (s t : State), (∀ d, openFrame d s.trace = none) → exec i s = .next t →
    (∀ d, frames d t.trace = frames d s.trace ++ (if d = (opOf i).dev then [frameOf (opOf i)] else [])) ∧
    (∀ d, openFrame d t.trace = none) ∧
    ∃ t', exec i t = .next t' ∧ frames (opOf i).dev t'.trace =
      frames (opOf i).dev s.trace ++ [frameOf (opOf i), frameOf (opOf i)]

/-- 20_memory R51: at every point of an operation that starts in a lawful idle state, the other device's line is
not Low and no byte goes to it, and while the operation's own line is Low the bytes since its falling edge are the
first bytes of its own frame; when the operation is over, its device has received that frame and no other. -/
def Obligations.FramesAreAtomic : Prop :=
  ∀ (op : Op) (s : State), IdleLaws Config.params s → refusalOf op s = none →
    (∀ k, (∀ d, d ≠ op.dev → (emitAll ((steps Config.params op).take k) s).cs.get d ≠ some .low) ∧
      (∀ bytes, openFrame op.dev (emitAll ((steps Config.params op).take k) s).trace = some bytes →
        bytes <+: frameOf op) ∧
      (∀ d, d ≠ op.dev → openFrame d (emitAll ((steps Config.params op).take k) s).trace = none)) ∧
    (∀ d, frames d (emitAll (steps Config.params op) s).trace =
      frames d s.trace ++ (if d = op.dev then [frameOf op] else [])) ∧
    (∀ d, openFrame d (emitAll (steps Config.params op) s).trace = none)

/-- 00_scope R11, 42_cs_sequencer R126 law 4: `MemWrite` has a meaning exactly for 1 or 3 bytes of a number of that
width, while the device is selected and the bus is in a transaction with the device's configuration; it sends the
bytes, the most significant first, and changes nothing else; the frame of each operation is such a write. -/
def Obligations.FramesAreMemWrites : Prop :=
  (∀ (p : Params) (d : Dev) (n v : Nat) (s : State),
    (∃ t, memWrite p d n v s = some t) ↔
      (n = 1 ∨ n = 3) ∧ v < 2 ^ (8 * n) ∧
        s.cs.get d = some .low ∧ s.busOpen = true ∧ s.busCfg = some (p.cfg d)) ∧
  (∀ (p : Params) (d : Dev) (n v : Nat) (s t : State), memWrite p d n v s = some t →
    t = { s with trace := s.trace ++ memWriteSteps n v }) ∧
  (∀ (c : Byte) (v : Half), memWriteSteps 3 (c.toNat * 65536 + v.toNat) = transfers (encDac c v)) ∧
  (∀ m : Byte, memWriteSteps 1 m.toNat = transfers (encSw m)) ∧
  (∀ (p : Params) (op : Op) (s : State), ∃ before after, steps p op = before ++ transfers (frameOf op) ++ after ∧
    memWrite p op.dev (frameOf op).length (frameNumber (frameOf op)) (emitAll before s) =
      some (emitAll (before ++ transfers (frameOf op)) s))

/-- 70_reset_and_hazards R158: in `DAC.WRITE` the line falls while the bus still has the configuration it had;
one event later the bus is configured for the DAC. -/
def Obligations.DacWriteSelectsBeforeConfiguring : Prop :=
  ∀ (c : Byte) (v : Half) (s : State), s.seq = .run (.dacWrite c v) 0 →
    ∃ t u, step s = .next t ∧ t.cs.get .dac = some .low ∧ t.busCfg = s.busCfg ∧
      step t = .next u ∧ u.cs.get .dac = some .low ∧ u.busCfg = some (Config.params.cfg .dac)

/-- 20_memory R40 to R43 (the spec's decision D3): the calls on the consumed interfaces that each of the six events
stands for, and that those of an operation are on its own line, with its own configuration, never the stand-alone
configure, and wait for `T_SETTLE` only. -/
def Obligations.CallsOnTheInterfaces : Prop :=
  (∀ (p : Params) (d : Dev), (Event.pinOutput d).calls p = [.setOutput (p.csOf d)]) ∧
  (∀ (p : Params) (d : Dev) (l : Level),
    (Event.csSet d l).calls p = [.selectLineSet (p.csOf d) l, .driveLine (p.csOf d) l]) ∧
  (∀ (p : Params) (cfg : BusCfg), (Event.busBegin cfg).calls p = [.beginTransaction cfg]) ∧
  (∀ p : Params, Event.busEnd.calls p = [.endTransaction]) ∧
  (∀ (p : Params) (b : Byte), (Event.transfer b).calls p = [.transferByte b]) ∧
  (∀ p : Params, Event.wait.calls p = [.blockMicros p.settle]) ∧
  (∀ (p : Params) (op : Op) (e : Event) (x : Call), e ∈ steps p op → x ∈ e.calls p →
    (∀ cfg, x ≠ .configure cfg) ∧
    (∀ cfg, x = .beginTransaction cfg → cfg = p.cfg op.dev) ∧
    (∀ id l, x = .selectLineSet id l ∨ x = .driveLine id l → id = p.csOf op.dev) ∧
    (∀ id, x = .setOutput id → id = p.csOf op.dev ∧ op.isInit = true) ∧
    (∀ n, x = .blockMicros n → n = p.settle))

/-! ## Steps and runs -/

/-- A step of the idle machine is `exec` of the decoded instruction on the state without the input it came from
(42_cs_sequencer R115; `inputs` and `withFetchWord` are the model's, log entries 6 and 7); a refused request
leaves its mark and the run goes on (10_state R37; log entry 8). -/
def Obligations.StepRunsTheDecodedInstruction : Prop :=
  (∀ (s : State) (w : Code) (rest : List Input), s.seq = .idle → s.inputs = .call w :: rest →
    (∀ t, exec (decode w) { s with inputs := rest } = .next t → step s = .next t) ∧
    (∀ r, exec (decode w) { s with inputs := rest } = .refused r →
      step s = .next { s with inputs := rest, refusedSeen := true })) ∧
  (∀ (s t : State) (nbits w : Nat) (i : Instr), decodeTableWord nbits w = some i →
    exec i { s with seq := .idle } = .next t → step (s.withFetchWord nbits w) = .next t)

/-- 20_memory R59 (the spec's decision D13): the environment's move replaces the bus configuration and nothing
else. -/
def Obligations.EnvironmentMovesTheBusOnly : Prop :=
  ∀ (s : State) (cfg : BusCfg) (rest : List Input), s.seq = .idle → s.inputs = .env cfg :: rest →
    step s = .next { s with busCfg := some cfg, inputs := rest }

/-- 42_cs_sequencer R116: a running sequencer emits exactly one event a step, the next of its list, and returns
to Idle after the last, an init with its driver Ready. -/
def Obligations.OneEventAStep : Prop :=
  ∀ (s : State) (op : Op) (k : Nat), s.seq = .run op k → k < (steps Config.params op).length →
    ∃ t e, step s = .next t ∧ (steps Config.params op)[k]? = some e ∧ t.trace = s.trace ++ [e] ∧
      t.inputs = s.inputs ∧ t.refusedSeen = s.refusedSeen ∧
      (k + 1 < (steps Config.params op).length → t.seq = .run op (k + 1) ∧ t.st = s.st) ∧
      (k + 1 = (steps Config.params op).length →
        t.seq = .idle ∧ t.st = if op.isInit then s.st.set op.dev .ready else s.st)

/-- 42_cs_sequencer R116: an accepted operation always completes, after as many steps as it has events left. -/
def Obligations.RunningOperationCompletes : Prop :=
  ∀ (s : State) (op : Op) (k : Nat), s.seq = .run op k → k < (steps Config.params op).length →
    ∃ t, runSteps ((steps Config.params op).length - k) s = .next t ∧ t.seq = .idle ∧
      t.trace = s.trace ++ (steps Config.params op).drop k ∧ t.inputs = s.inputs ∧
      (op.isInit = true → t.st.get op.dev = .ready)

/-- 42_cs_sequencer R116 (the spec's decision D15): executing a request one event a step reaches the state that
executing it at once reaches, and a refused one is refused alike. -/
def Obligations.SmallStepsAgreeWithBigStep : Prop :=
  ∀ (w : Code) (rest : List Input) (s : State), s.seq = .idle →
    (refusalOf (opOf (decode w)) s = none →
      runSteps ((steps Config.params (opOf (decode w))).length + 1) { s with inputs := .start w :: rest } =
        step { s with inputs := .call w :: rest }) ∧
    (refusalOf (opOf (decode w)) s ≠ none →
      step { s with inputs := .start w :: rest } = step { s with inputs := .call w :: rest })

/-- 20_memory R55: a list of requests, each executed as a whole (`call`; a `start`, one event a step, agrees with
it by `SmallStepsAgreeWithBigStep`), with any moves of the environment between them, leaves the trace that is the
concatenation of the event lists of its accepted requests, and each device its frames in request order; the
refused mark is set exactly when a request was refused (10_state R37). -/
def Obligations.RunIsTheConcatenationOfItsRequests : Prop :=
  ∀ (ins : List Input) (s : State), (∀ w, Input.start w ∉ ins) → s.seq = .idle → s.inputs = ins →
    ∃ t, runSteps ins.length s = .next t ∧ t.seq = .idle ∧ t.inputs = [] ∧
      t.trace = s.trace ++ (acceptedOps s.st (opsOf ins)).flatMap (steps Config.params) ∧
      ((∀ d, openFrame d s.trace = none) → ∀ d, frames d t.trace =
        frames d s.trace ++ ((acceptedOps s.st (opsOf ins)).filter fun op => op.dev = d).map frameOf) ∧
      (t.refusedSeen = true ↔
        s.refusedSeen = true ∨ (acceptedOps s.st (opsOf ins)).length ≠ (opsOf ins).length)

/-- 42_cs_sequencer R126, 10_state R24: the invariant that every step keeps, in the middle of an operation as
well as between two. Law 2 and law 8 after a `DAC.INIT` rest on the spec's decision D9. -/
def Obligations.StepKeepsTheLaws : Prop :=
  ∀ s t : State, Lawful Config.params s → step s = .next t → Lawful Config.params t

/-- 42_cs_sequencer R126, R127: the laws hold after reset. -/
def Obligations.ResetIsLawful : Prop := Lawful Config.params State.reset

/-- 42_cs_sequencer R119, R126 law 3: never are both lines Low, and when one is, the other is High or has never
been driven; at most one line is commanded Low. Of a device whose line was never driven nothing is said (log entry
16). -/
def Obligations.NeverBothSelected : Prop :=
  ∀ s : State, Lawful Config.params s →
    ¬ (s.cs.get .dac = some .low ∧ s.cs.get .sw = some .low) ∧
    (∀ d, s.cs.get d = some .low → s.cs.get d.other = some .high ∨ s.cs.get d.other = none) ∧
    (listeners s).length ≤ 1

/-- 42_cs_sequencer R126 law 4, 20_memory R44: in every lawful state, in the middle of an operation too, each
transfer of the trace stands in the select span of one device and in a bus transaction with that device's
configuration. -/
def Obligations.EveryTransferIsScoped : Prop :=
  ∀ s : State, Lawful Config.params s → TransfersScoped Config.params s.trace

/-- 10_state R23: in every lawful state, in the middle of an operation too, `cs[d]` is the level last commanded
in the trace, and `oe[d]` holds exactly when the trace has a `PinOutput` of the line. -/
def Obligations.SelectStateIsToldByTheTrace : Prop :=
  ∀ s : State, Lawful Config.params s →
    ∀ d, lineAfter d s.trace = s.cs.get d ∧ (s.oe.get d = true ↔ Event.pinOutput d ∈ s.trace)

/-- 42_cs_sequencer R126 law 9, 10_state R23, R28, R37: nothing is undone: a step only adds to the trace, and
Ready, the output mode and the refused mark stay. -/
def Obligations.StepsUndoNothing : Prop :=
  ∀ s t : State, step s = .next t →
    (∃ es, t.trace = s.trace ++ es) ∧
    (∀ d, s.st.get d = .ready → t.st.get d = .ready) ∧
    (∀ d, s.oe.get d = true → t.oe.get d = true) ∧
    (s.refusedSeen = true → t.refusedSeen = true)

/-- 60_exceptions R130, R136: the machine never faults and is never stuck: every state has a next one. -/
def Obligations.EveryStateHasAStep : Prop :=
  ∀ s : State, ∃ t, step s = .next t
end

