-- ==== Sys2Proof/Laws/Encoding.lean ====
section
/-! SUPPORT. The bits and fields of the words, and the split of a value into its bytes. -/

namespace Sys2Proof

theorem reqWord_getLsbD (op : BitVec 2) (c : Byte) (v : Half) (i : Nat) :
    (reqWord op c v).getLsbD i =
      if i < 16 then v.getLsbD i else if i - 16 < 8 then c.getLsbD (i - 16) else op.getLsbD (i - 16 - 8) := by
  refine (BitVec.getLsbD_append (x := op ++ c) (y := v)).trans ?_
  rw [BitVec.getLsbD_append]

theorem dacWord_getLsbD (c : Byte) (v : Half) (i : Nat) :
    (dacWord c v).getLsbD i = if i < 16 then v.getLsbD i else c.getLsbD (i - 16) :=
  BitVec.getLsbD_append (x := c) (y := v)

@[simp] theorem reqWord_op (op : BitVec 2) (c : Byte) (v : Half) : (reqWord op c v).extractLsb' 24 2 = op := by
  apply BitVec.eq_of_getLsbD_eq
  intro i hi
  rw [BitVec.getLsbD_extractLsb', reqWord_getLsbD]
  interval_cases i <;> simp

@[simp] theorem reqWord_cmd (op : BitVec 2) (c : Byte) (v : Half) : (reqWord op c v).extractLsb' 16 8 = c := by
  apply BitVec.eq_of_getLsbD_eq
  intro i hi
  rw [BitVec.getLsbD_extractLsb', reqWord_getLsbD]
  interval_cases i <;> simp

@[simp] theorem reqWord_value (op : BitVec 2) (c : Byte) (v : Half) : (reqWord op c v).extractLsb' 0 16 = v := by
  apply BitVec.eq_of_getLsbD_eq
  intro i hi
  rw [BitVec.getLsbD_extractLsb', reqWord_getLsbD]
  interval_cases i <;> simp

@[simp] theorem reqWord_mask (op : BitVec 2) (c m : Byte) :
    (reqWord op c (m.setWidth 16)).extractLsb' 0 8 = m := by
  apply BitVec.eq_of_getLsbD_eq
  intro i hi
  rw [BitVec.getLsbD_extractLsb', reqWord_getLsbD]
  interval_cases i <;> simp

@[simp] theorem dacWord_cmd (c : Byte) (v : Half) : (dacWord c v).extractLsb' 16 8 = c := by
  apply BitVec.eq_of_getLsbD_eq
  intro i hi
  rw [BitVec.getLsbD_extractLsb', dacWord_getLsbD]
  interval_cases i <;> simp

@[simp] theorem dacWord_value (c : Byte) (v : Half) : (dacWord c v).extractLsb' 0 16 = v := by
  apply BitVec.eq_of_getLsbD_eq
  intro i hi
  rw [BitVec.getLsbD_extractLsb', dacWord_getLsbD]
  interval_cases i <;> simp

/-- A DAC frame is its fields (spec 30_encoding R77). -/
theorem dacWord_fields (f : BitVec 24) : dacWord (f.extractLsb' 16 8) (f.extractLsb' 0 16) = f := by
  apply BitVec.eq_of_getLsbD_eq
  intro i hi
  rw [dacWord_getLsbD]
  interval_cases i <;> simp

/-- A request word is its fields (spec 30_encoding R73). -/
theorem reqWord_fields (q : BitVec 26) :
    reqWord (q.extractLsb' 24 2) (q.extractLsb' 16 8) (q.extractLsb' 0 16) = q := by
  apply BitVec.eq_of_getLsbD_eq
  intro i hi
  rw [reqWord_getLsbD]
  interval_cases i <;> simp

theorem dacWord_inj {c c' : Byte} {v v' : Half} (h : dacWord c v = dacWord c' v') : c = c' ∧ v = v' :=
  ⟨by rw [← dacWord_cmd c v, h, dacWord_cmd], by rw [← dacWord_value c v, h, dacWord_value]⟩

namespace Machine

theorem hiByte_toNat (v : Half) : (hiByte v).toNat = v.toNat / 256 := by
  have := v.isLt
  simp [hiByte, Nat.shiftRight_eq_div_pow]
  omega

theorem loByte_toNat (v : Half) : (loByte v).toNat = v.toNat % 256 := by
  have h : ∀ n : Nat, n &&& 255 = n % 256 := fun n => Nat.and_two_pow_sub_one_eq_mod n 8
  simp [loByte, h]

end Machine

end Sys2Proof
end

