-- ==== Sys2Proof/Laws/State.lean ====
section
/-! SUPPORT. The small lemmas of the state: one per field for each named update. -/

namespace Sys2Proof.Machine

@[simp] theorem PerDev.get_set_self {α : Type} (x : PerDev α) (d : Dev) (a : α) : (x.set d a).get d = a := by
  cases d <;> rfl

@[simp] theorem PerDev.get_set_dac_sw {α : Type} (x : PerDev α) (a : α) : (x.set .dac a).get .sw = x.get .sw := rfl

@[simp] theorem PerDev.get_set_sw_dac {α : Type} (x : PerDev α) (a : α) : (x.set .sw a).get .dac = x.get .dac := rfl

@[simp] theorem PerDev.set_set {α : Type} (x : PerDev α) (d : Dev) (a b : α) : (x.set d a).set d b = x.set d b := by
  cases d <;> rfl

theorem PerDev.get_set_of_ne {α : Type} (x : PerDev α) {d e : Dev} (a : α) (h : e ≠ d) :
    (x.set d a).get e = x.get e := by
  cases d <;> cases e <;> first | rfl | exact absurd rfl h

theorem PerDev.get_set {α : Type} (x : PerDev α) (d e : Dev) (a : α) :
    (x.set d a).get e = if e = d then a else x.get e := by
  cases d <;> cases e <;> rfl

theorem PerDev.set_eq_self {α : Type} {x : PerDev α} {d : Dev} {a : α} (h : x.get d = a) : x.set d a = x := by
  subst h; cases d <;> rfl

@[simp] theorem envMove_st (c : BusCfg) (s : State) : (envMove c s).st = s.st := rfl
@[simp] theorem envMove_oe (c : BusCfg) (s : State) : (envMove c s).oe = s.oe := rfl
@[simp] theorem envMove_cs (c : BusCfg) (s : State) : (envMove c s).cs = s.cs := rfl
@[simp] theorem envMove_seq (c : BusCfg) (s : State) : (envMove c s).seq = s.seq := rfl
@[simp] theorem envMove_busCfg (c : BusCfg) (s : State) : (envMove c s).busCfg = some c := rfl
@[simp] theorem envMove_busOpen (c : BusCfg) (s : State) : (envMove c s).busOpen = s.busOpen := rfl
@[simp] theorem envMove_trace (c : BusCfg) (s : State) : (envMove c s).trace = s.trace := rfl
@[simp] theorem envMove_refusedSeen (c : BusCfg) (s : State) : (envMove c s).refusedSeen = s.refusedSeen := rfl
@[simp] theorem envMove_inputs (c : BusCfg) (s : State) : (envMove c s).inputs = s.inputs := rfl

@[simp] theorem markRefused_st (s : State) : (markRefused s).st = s.st := rfl
@[simp] theorem markRefused_oe (s : State) : (markRefused s).oe = s.oe := rfl
@[simp] theorem markRefused_cs (s : State) : (markRefused s).cs = s.cs := rfl
@[simp] theorem markRefused_seq (s : State) : (markRefused s).seq = s.seq := rfl
@[simp] theorem markRefused_busCfg (s : State) : (markRefused s).busCfg = s.busCfg := rfl
@[simp] theorem markRefused_busOpen (s : State) : (markRefused s).busOpen = s.busOpen := rfl
@[simp] theorem markRefused_trace (s : State) : (markRefused s).trace = s.trace := rfl
@[simp] theorem markRefused_refusedSeen (s : State) : (markRefused s).refusedSeen = true := rfl
@[simp] theorem markRefused_inputs (s : State) : (markRefused s).inputs = s.inputs := rfl

@[simp] theorem present_st (w : Code) (s : State) : (present w s).st = s.st := rfl
@[simp] theorem present_oe (w : Code) (s : State) : (present w s).oe = s.oe := rfl
@[simp] theorem present_cs (w : Code) (s : State) : (present w s).cs = s.cs := rfl
@[simp] theorem present_seq (w : Code) (s : State) : (present w s).seq = .idle := rfl
@[simp] theorem present_busCfg (w : Code) (s : State) : (present w s).busCfg = s.busCfg := rfl
@[simp] theorem present_busOpen (w : Code) (s : State) : (present w s).busOpen = s.busOpen := rfl
@[simp] theorem present_trace (w : Code) (s : State) : (present w s).trace = s.trace := rfl
@[simp] theorem present_refusedSeen (w : Code) (s : State) : (present w s).refusedSeen = s.refusedSeen := rfl
@[simp] theorem present_inputs (w : Code) (s : State) : (present w s).inputs = .call w :: s.inputs := rfl

/-- No event writes the driver states (spec 20_memory R44). -/
@[simp] theorem emit_st (e : Event) (s : State) : (emit e s).st = s.st := by cases e <;> rfl
@[simp] theorem emit_seq (e : Event) (s : State) : (emit e s).seq = s.seq := by cases e <;> rfl
@[simp] theorem emit_refusedSeen (e : Event) (s : State) : (emit e s).refusedSeen = s.refusedSeen := by cases e <;> rfl
@[simp] theorem emit_inputs (e : Event) (s : State) : (emit e s).inputs = s.inputs := by cases e <;> rfl
@[simp] theorem emit_trace (e : Event) (s : State) : (emit e s).trace = s.trace ++ [e] := rfl

@[simp] theorem emit_pinOutput_oe (d : Dev) (s : State) : (emit (.pinOutput d) s).oe = s.oe.set d true := rfl
@[simp] theorem emit_csSet_oe (d : Dev) (l : Level) (s : State) : (emit (.csSet d l) s).oe = s.oe := rfl
@[simp] theorem emit_busBegin_oe (c : BusCfg) (s : State) : (emit (.busBegin c) s).oe = s.oe := rfl
@[simp] theorem emit_busEnd_oe (s : State) : (emit .busEnd s).oe = s.oe := rfl
@[simp] theorem emit_transfer_oe (b : Byte) (s : State) : (emit (.transfer b) s).oe = s.oe := rfl
@[simp] theorem emit_wait_oe (s : State) : (emit .wait s).oe = s.oe := rfl

@[simp] theorem emit_pinOutput_cs (d : Dev) (s : State) : (emit (.pinOutput d) s).cs = s.cs := rfl
@[simp] theorem emit_csSet_cs (d : Dev) (l : Level) (s : State) : (emit (.csSet d l) s).cs = s.cs.set d (some l) := rfl
@[simp] theorem emit_busBegin_cs (c : BusCfg) (s : State) : (emit (.busBegin c) s).cs = s.cs := rfl
@[simp] theorem emit_busEnd_cs (s : State) : (emit .busEnd s).cs = s.cs := rfl
@[simp] theorem emit_transfer_cs (b : Byte) (s : State) : (emit (.transfer b) s).cs = s.cs := rfl
@[simp] theorem emit_wait_cs (s : State) : (emit .wait s).cs = s.cs := rfl

@[simp] theorem emit_pinOutput_busCfg (d : Dev) (s : State) : (emit (.pinOutput d) s).busCfg = s.busCfg := rfl
@[simp] theorem emit_csSet_busCfg (d : Dev) (l : Level) (s : State) : (emit (.csSet d l) s).busCfg = s.busCfg := rfl
@[simp] theorem emit_busBegin_busCfg (c : BusCfg) (s : State) : (emit (.busBegin c) s).busCfg = some c := rfl
@[simp] theorem emit_busEnd_busCfg (s : State) : (emit .busEnd s).busCfg = s.busCfg := rfl
@[simp] theorem emit_transfer_busCfg (b : Byte) (s : State) : (emit (.transfer b) s).busCfg = s.busCfg := rfl
@[simp] theorem emit_wait_busCfg (s : State) : (emit .wait s).busCfg = s.busCfg := rfl

@[simp] theorem emit_pinOutput_busOpen (d : Dev) (s : State) : (emit (.pinOutput d) s).busOpen = s.busOpen := rfl
@[simp] theorem emit_csSet_busOpen (d : Dev) (l : Level) (s : State) : (emit (.csSet d l) s).busOpen = s.busOpen := rfl
@[simp] theorem emit_busBegin_busOpen (c : BusCfg) (s : State) : (emit (.busBegin c) s).busOpen = true := rfl
@[simp] theorem emit_busEnd_busOpen (s : State) : (emit .busEnd s).busOpen = false := rfl
@[simp] theorem emit_transfer_busOpen (b : Byte) (s : State) : (emit (.transfer b) s).busOpen = s.busOpen := rfl
@[simp] theorem emit_wait_busOpen (s : State) : (emit .wait s).busOpen = s.busOpen := rfl

end Sys2Proof.Machine
end

