-- ==== Sys2Proof/Laws/Ops.lean ====
section
/-! SUPPORT. What each shared operation can do, said once: a list of events (`emitAll`), acceptance
(`refusalOf`), a request as a whole (`request`), and the meanings as requests (`exec`). -/

namespace Sys2Proof.Machine

@[simp] theorem emitAll_nil (s : State) : emitAll [] s = s := rfl

@[simp] theorem emitAll_cons (e : Event) (es : List Event) (s : State) :
    emitAll (e :: es) s = emitAll es (emit e s) := rfl

theorem emitAll_append (xs ys : List Event) (s : State) : emitAll (xs ++ ys) s = emitAll ys (emitAll xs s) := by
  induction xs generalizing s with
  | nil => rfl
  | cons e xs ih => simp [ih]

@[simp] theorem emitAll_st (es : List Event) (s : State) : (emitAll es s).st = s.st := by
  induction es generalizing s <;> simp_all

@[simp] theorem emitAll_seq (es : List Event) (s : State) : (emitAll es s).seq = s.seq := by
  induction es generalizing s <;> simp_all

@[simp] theorem emitAll_refusedSeen (es : List Event) (s : State) : (emitAll es s).refusedSeen = s.refusedSeen := by
  induction es generalizing s <;> simp_all

@[simp] theorem emitAll_inputs (es : List Event) (s : State) : (emitAll es s).inputs = s.inputs := by
  induction es generalizing s <;> simp_all

@[simp] theorem emitAll_trace (es : List Event) (s : State) : (emitAll es s).trace = s.trace ++ es := by
  induction es generalizing s <;> simp_all

/-- The events of a list leave `inputs` out of account. -/
theorem emitAll_setInputs (es : List Event) (s : State) (ins : List Input) :
    emitAll es { s with inputs := ins } = { emitAll es s with inputs := ins } := by
  induction es generalizing s with
  | nil => rfl
  | cons e es ih =>
    have h : emit e { s with inputs := ins } = { emit e s with inputs := ins } := by cases e <;> rfl
    rw [emitAll_cons, emitAll_cons, h]
    exact ih (emit e s)

/-- The events of a list leave `seq` out of account. -/
theorem emitAll_setSeq (es : List Event) (s : State) (q : Seq) :
    emitAll es { s with seq := q } = { emitAll es s with seq := q } := by
  induction es generalizing s with
  | nil => rfl
  | cons e es ih =>
    have h : emit e { s with seq := q } = { emit e s with seq := q } := by cases e <;> rfl
    rw [emitAll_cons, emitAll_cons, h]
    exact ih (emit e s)

/-- A request is accepted exactly at Idle, by an init or in a Ready driver (spec 42_cs_sequencer R112 to R114). -/
theorem refusalOf_eq_none (op : Op) (s : State) :
    refusalOf op s = none ↔ s.seq = .idle ∧ (op.isInit = true ∨ s.st.get op.dev = .ready) := by
  unfold refusalOf
  cases hq : s.seq with
  | run o k => simp
  | idle =>
    cases hi : op.isInit
    · cases hs : s.st.get op.dev <;> simp
    · simp

/-- What the whole list of an operation does to an idle state: the line ends High, the bus closed and left
configured for the driver (spec 42_cs_sequencer R117, R122). -/
theorem emitAll_steps (p : Params) (op : Op) (s : State) :
    emitAll (steps p op) s =
      { s with
        oe := if op.isInit then s.oe.set op.dev true else s.oe
        cs := s.cs.set op.dev (some .high)
        busCfg := some (p.cfg op.dev)
        busOpen := false
        trace := s.trace ++ steps p op } := by
  cases op with
  | dacWrite c v => cases s; simp [steps, dacWriteSteps, transfers, encDac, emit, effect, busTransfer, Op.dev, Op.isInit]
  | swWrite m => cases s; simp [steps, swWriteSteps, transfers, encSw, emit, effect, busTransfer, Op.dev, Op.isInit]
  | dacInit =>
    cases s
    rcases h : p.initWaitsDac with ⟨_ | _, _ | _, _ | _, _ | _⟩ <;>
      simp [steps, dacInitSteps, slot, transfers, encDacInit, emit, effect, busTransfer, Op.dev, Op.isInit, h]
  | swInit =>
    cases s
    rcases h : p.initWaitsSw with ⟨_ | _, _ | _, _ | _, _ | _⟩ <;>
      simp [steps, swInitSteps, slot, transfers, encSwInit, emit, effect, busTransfer, Op.dev, Op.isInit, h]

/-- Transfers change nothing but the trace (spec 20_memory R44). -/
theorem emitAll_transfers (bytes : List Byte) (s : State) :
    emitAll (transfers bytes) s = { s with trace := s.trace ++ transfers bytes } := by
  induction bytes generalizing s with
  | nil => simp [transfers]
  | cons b bytes ih =>
    have h : emitAll (transfers (b :: bytes)) s =
        emitAll (transfers bytes) { s with trace := s.trace ++ [.transfer b] } := rfl
    rw [h, ih]
    simp [transfers]

/-- Everything a `MemWrite` can do (spec 00_scope R11, 42_cs_sequencer R126 law 4). -/
theorem memWrite_eq_some {p : Params} {d : Dev} {n v : Nat} {s t : State} :
    memWrite p d n v s = some t ↔ MemWriteDefined p d n v s ∧ emitAll (memWriteSteps n v) s = t := by
  simp [memWrite]

/-- The state an accepted request leaves (spec 42_cs_sequencer R115). -/
def completed (p : Params) (op : Op) (s : State) : State :=
  { s with
    st := if op.isInit then s.st.set op.dev .ready else s.st
    oe := if op.isInit then s.oe.set op.dev true else s.oe
    cs := s.cs.set op.dev (some .high)
    busCfg := some (p.cfg op.dev)
    busOpen := false
    trace := s.trace ++ steps p op }

theorem finish_emitAll (p : Params) (op : Op) (s : State) :
    finish op (emitAll (steps p op) s) = completed p op s := by
  rw [emitAll_steps]
  unfold finish completed
  cases op.isInit <;> rfl

theorem request_of_accepted {p : Params} {op : Op} {s : State} (h : refusalOf op s = none) :
    request p op s = .next (completed p op s) := by
  unfold request
  rw [h, finish_emitAll]

theorem request_of_refused {p : Params} {op : Op} {s : State} {r : Refusal} (h : refusalOf op s = some r) :
    request p op s = .refused r := by
  unfold request
  rw [h]

/-- Everything a request can do (spec 42_cs_sequencer R115). -/
theorem request_cases (p : Params) (op : Op) (s : State) :
    (refusalOf op s = none ∧ request p op s = .next (completed p op s)) ∨
      ∃ r, refusalOf op s = some r ∧ request p op s = .refused r := by
  cases h : refusalOf op s with
  | none => exact .inl ⟨rfl, request_of_accepted h⟩
  | some r => exact .inr ⟨r, rfl, request_of_refused h⟩

/-- Every meaning is the request of its operation. -/
theorem exec_eq_request (i : Instr) (s : State) : exec i s = request Config.params (opOf i) s := by
  cases i <;> rfl

/-- If `exec` answers a next state, the request was accepted and this is the state. -/
theorem exec_next {i : Instr} {s t : State} (h : exec i s = .next t) :
    refusalOf (opOf i) s = none ∧ t = completed Config.params (opOf i) s := by
  rw [exec_eq_request] at h
  rcases request_cases Config.params (opOf i) s with ⟨ha, hr⟩ | ⟨r, _, hr⟩ <;> rw [hr] at h
  · injection h with h
    exact ⟨ha, h.symm⟩
  · cases h

/-- If `exec` refuses, this is the reason. -/
theorem exec_refused {i : Instr} {s : State} {r : Refusal} (h : exec i s = .refused r) :
    refusalOf (opOf i) s = some r := by
  rw [exec_eq_request] at h
  rcases request_cases Config.params (opOf i) s with ⟨_, hr⟩ | ⟨r', ha, hr⟩ <;> rw [hr] at h
  · cases h
  · injection h with h
    rw [← h]
    exact ha

end Sys2Proof.Machine
end

