-- ==== Sys2Proof/Laws/PerInstr.lean ====
section
/-! SUPPORT. Statements made per instruction. `TableRow`: the word the encoder gives an instruction is in its
row's format and matches its row's mask and match (spec opcode_table.json, 30_encoding R78). -/

namespace Sys2Proof.Laws.TableRow

/-- The format, the mask and the match of an instruction's row in spec/opcode_table.json. -/
def row : Instr → Format × Nat × Nat
  | .dacInit => (.req26, 0x3000000, 0x0000000)
  | .dacWrite _ _ => (.req26, 0x3000000, 0x1000000)
  | .dacWriteChn1 _ => (.req26, 0x3FF0000, 0x1180000)
  | .dacWriteChn2 _ => (.req26, 0x3FF0000, 0x1190000)
  | .dacWriteChnAll _ => (.req26, 0x3FF0000, 0x1F80000)
  | .dacWriteReset _ => (.req26, 0x3FF0000, 0x12F0000)
  | .swInit => (.req26, 0x3000000, 0x2000000)
  | .swWrite _ => (.req26, 0x3000000, 0x3000000)
  | .frameDacWrite _ _ => (.dac24, 0x000000, 0x000000)
  | .frameDacWriteChn1 _ => (.dac24, 0xFF0000, 0x180000)
  | .frameDacWriteChn2 _ => (.dac24, 0xFF0000, 0x190000)
  | .frameDacWriteChnAll _ => (.dac24, 0xFF0000, 0xF80000)
  | .frameDacWriteReset _ => (.dac24, 0xFF0000, 0x2F0000)
  | .frameDacInit => (.dac24, 0xFFFFFF, 0x140001)
  | .frameSwWrite _ => (.sw8, 0x00, 0x00)
  | .frameSwInit => (.sw8, 0xFF, 0x00)

def Statement (i : Instr) : Prop :=
  (encode i).format = (row i).1 ∧ (encode i).toNat &&& (row i).2.1 = (row i).2.2

/-- The bits of a request word above its value are those of the operation and the command byte. -/
theorem req_masked (op : BitVec 2) (c : Byte) (v : Half) :
    (reqWord op c v).toNat &&& 0x3FF0000 = (reqWord op c 0#16).toNat := by
  have h : reqWord op c v &&& 0x3FF0000#26 = reqWord op c 0#16 := by
    apply BitVec.eq_of_getLsbD_eq
    intro i hi
    rw [BitVec.getLsbD_and, reqWord_getLsbD, reqWord_getLsbD]
    interval_cases i <;> simp
  simpa using congrArg BitVec.toNat h

/-- The two top bits of a request word are those of the operation. -/
theorem op_masked (op : BitVec 2) (c : Byte) (v : Half) :
    (reqWord op c v).toNat &&& 0x3000000 = (reqWord op 0#8 0#16).toNat := by
  have h : reqWord op c v &&& 0x3000000#26 = reqWord op 0#8 0#16 := by
    apply BitVec.eq_of_getLsbD_eq
    intro i hi
    rw [BitVec.getLsbD_and, reqWord_getLsbD, reqWord_getLsbD]
    interval_cases i <;> simp
  simpa using congrArg BitVec.toNat h

/-- The top byte of a DAC frame is its command byte. -/
theorem frame_masked (c : Byte) (v : Half) : (dacWord c v).toNat &&& 0xFF0000 = (dacWord c 0#16).toNat := by
  have h : dacWord c v &&& 0xFF0000#24 = dacWord c 0#16 := by
    apply BitVec.eq_of_getLsbD_eq
    intro i hi
    rw [BitVec.getLsbD_and, dacWord_getLsbD, dacWord_getLsbD]
    interval_cases i <;> simp
  simpa using congrArg BitVec.toNat h

theorem dacInit : Statement .dacInit := ⟨rfl, op_masked 0 0 0⟩
theorem dacWrite (c : Byte) (v : Half) : Statement (.dacWrite c v) := ⟨rfl, op_masked 1 c v⟩
theorem dacWriteChn1 (v : Half) : Statement (.dacWriteChn1 v) := ⟨rfl, req_masked 1 (Machine.cmdCode .chn1) v⟩
theorem dacWriteChn2 (v : Half) : Statement (.dacWriteChn2 v) := ⟨rfl, req_masked 1 (Machine.cmdCode .chn2) v⟩
theorem dacWriteChnAll (v : Half) : Statement (.dacWriteChnAll v) := ⟨rfl, req_masked 1 (Machine.cmdCode .chnAll) v⟩
theorem dacWriteReset (v : Half) : Statement (.dacWriteReset v) := ⟨rfl, req_masked 1 (Machine.cmdCode .reset) v⟩
theorem swInit : Statement .swInit := ⟨rfl, op_masked 2 0 0⟩
theorem swWrite (m : Byte) : Statement (.swWrite m) := ⟨rfl, op_masked 3 0 (m.setWidth 16)⟩
theorem frameDacWrite (c : Byte) (v : Half) : Statement (.frameDacWrite c v) := ⟨rfl, by simp [row]⟩
theorem frameDacWriteChn1 (v : Half) : Statement (.frameDacWriteChn1 v) := ⟨rfl, frame_masked (Machine.cmdCode .chn1) v⟩
theorem frameDacWriteChn2 (v : Half) : Statement (.frameDacWriteChn2 v) := ⟨rfl, frame_masked (Machine.cmdCode .chn2) v⟩
theorem frameDacWriteChnAll (v : Half) : Statement (.frameDacWriteChnAll v) :=
  ⟨rfl, frame_masked (Machine.cmdCode .chnAll) v⟩
theorem frameDacWriteReset (v : Half) : Statement (.frameDacWriteReset v) :=
  ⟨rfl, frame_masked (Machine.cmdCode .reset) v⟩
theorem frameDacInit : Statement .frameDacInit := ⟨rfl, rfl⟩
theorem frameSwWrite (m : Byte) : Statement (.frameSwWrite m) := ⟨rfl, by simp [row]⟩
theorem frameSwInit : Statement .frameSwInit := ⟨rfl, rfl⟩

end Sys2Proof.Laws.TableRow
end

