-- ==== Sys2Proof/Laws/Step.lean ====
section
/-! SUPPORT. Everything a step can do, said once: the sequencer runs on, the idle block waits, the environment
moves, a request is accepted as a whole or one event at a time, or it is refused. -/

namespace Sys2Proof.Machine

/-- The reasons of a refusal, with what each says of the state (spec 60_exceptions R136). -/
theorem refusalOf_eq_some {op : Op} {s : State} {r : Refusal} (h : refusalOf op s = some r) :
    (r = .busy ∧ s.seq ≠ .idle) ∨
      (r = .writeBeforeInit op.dev ∧ s.seq = .idle ∧ op.isInit = false ∧ s.st.get op.dev = .uninitialized) := by
  unfold refusalOf at h
  cases hq : s.seq with
  | run o k =>
    simp only [hq, Option.some.injEq] at h
    exact .inl ⟨h.symm, by simp⟩
  | idle =>
    right
    cases hi : op.isInit <;> simp [hq, hi] at h
    cases hs : s.st.get op.dev <;> simp [hs] at h
    exact ⟨h.symm, rfl, rfl, rfl⟩

/-- A refused request that is settled leaves its mark. -/
theorem settle_refused {op : Op} {s s' : State} {r : Refusal} (h : refusalOf op s = some r) :
    settle s' (.refused r) = .next (markRefused s') := by
  rcases refusalOf_eq_some h with ⟨hr, _⟩ | ⟨hr, _⟩ <;> subst hr <;> rfl

theorem serve_call {s : State} {w : Code} {rest : List Input} (hi : s.inputs = .call w :: rest) :
    serve s = settle { s with inputs := rest } (request Config.params (opOf (decode w)) { s with inputs := rest }) := by
  unfold serve
  rw [hi, ← exec_eq_request]

theorem serve_start {s : State} {w : Code} {rest : List Input} (hi : s.inputs = .start w :: rest) :
    serve s = settle { s with inputs := rest } (accept (opOf (decode w)) { s with inputs := rest }) := by
  unfold serve
  rw [hi]

theorem step_run {s : State} {op : Op} {k : Nat} (h : s.seq = .run op k) :
    step s = .next (advance Config.params op k s) := by
  simp only [step, h]

theorem step_idle {s : State} (h : s.seq = .idle) : step s = serve s := by
  simp only [step, h]

/-- Everything a step can do. -/
theorem step_cases (s : State) :
    (∃ op k, s.seq = .run op k ∧ step s = .next (advance Config.params op k s)) ∨
    (s.seq = .idle ∧ s.inputs = [] ∧ step s = .next s) ∨
    (∃ cfg rest, s.seq = .idle ∧ s.inputs = .env cfg :: rest ∧
      step s = .next { s with busCfg := some cfg, inputs := rest }) ∨
    (∃ w rest, s.seq = .idle ∧ s.inputs = .call w :: rest ∧ refusalOf (opOf (decode w)) s = none ∧
      step s = .next (completed Config.params (opOf (decode w)) { s with inputs := rest })) ∨
    (∃ w rest, s.seq = .idle ∧ s.inputs = .start w :: rest ∧ refusalOf (opOf (decode w)) s = none ∧
      step s = .next { s with inputs := rest, seq := .run (opOf (decode w)) 0 }) ∨
    (∃ w rest, s.seq = .idle ∧ (s.inputs = .call w :: rest ∨ s.inputs = .start w :: rest) ∧
      refusalOf (opOf (decode w)) s ≠ none ∧
      step s = .next { s with inputs := rest, refusedSeen := true }) := by
  have hq : s.seq = .idle ∨ ∃ op k, s.seq = .run op k := by cases s.seq <;> simp
  rcases hq with hq | ⟨op, k, hq⟩
  swap
  · exact .inl ⟨op, k, hq, by simp only [step, hq]⟩
  right
  have hs : step s = serve s := by simp only [step, hq]
  rw [hs]
  rcases hi : s.inputs with _ | ⟨w | w | cfg, rest⟩
  · exact .inl ⟨hq, rfl, by simp only [serve, hi]⟩
  · right; right
    have href : refusalOf (opOf (decode w)) { s with inputs := rest } = refusalOf (opOf (decode w)) s := rfl
    cases hr : refusalOf (opOf (decode w)) s with
    | none =>
      refine .inl ⟨w, rest, hq, rfl, hr, ?_⟩
      rw [serve_call hi, request_of_accepted (href.trans hr)]
      rfl
    | some r =>
      refine .inr (.inr ⟨w, rest, hq, .inl rfl, by simp [hr], ?_⟩)
      rw [serve_call hi, request_of_refused (href.trans hr), settle_refused hr]
      rfl
  · right; right; right
    have href : refusalOf (opOf (decode w)) { s with inputs := rest } = refusalOf (opOf (decode w)) s := rfl
    cases hr : refusalOf (opOf (decode w)) s with
    | none =>
      refine .inl ⟨w, rest, hq, rfl, hr, ?_⟩
      rw [serve_start hi, accept, href, hr]
      rfl
    | some r =>
      refine .inr ⟨w, rest, hq, .inr rfl, by simp [hr], ?_⟩
      rw [serve_start hi, accept, href, hr]
      exact settle_refused hr
  · exact .inr (.inl ⟨cfg, rest, hq, rfl, by simp only [serve, hi, envMove]⟩)

/-- The three cases of an advancing sequencer (spec 42_cs_sequencer R116). -/
theorem advance_mid {p : Params} {op : Op} {k : Nat} {s : State} {e : Event} (he : (steps p op)[k]? = some e)
    (hk : k + 1 < (steps p op).length) : advance p op k s = { emit e s with seq := .run op (k + 1) } := by
  simp [advance, he, hk]

theorem advance_last {p : Params} {op : Op} {k : Nat} {s : State} {e : Event} (he : (steps p op)[k]? = some e)
    (hk : k + 1 = (steps p op).length) : advance p op k s = finish op { emit e s with seq := .idle } := by
  simp [advance, he, hk]

theorem advance_past {p : Params} {op : Op} {k : Nat} {s : State} (he : (steps p op)[k]? = none) :
    advance p op k s = { s with seq := .idle } := by
  simp [advance, he]

end Sys2Proof.Machine
end

