-- ==== Sys2Proof/Laws/Trace.lean ====
section
/-! SUPPORT. The readers of the trace over one more event and over the events of a whole operation. -/

namespace Sys2Proof.Machine

theorem scanTrace_append (d : Dev) (t es : List Event) :
    scanTrace d (t ++ es) = es.foldl (scanEvent d) (scanTrace d t) := by
  simp [scanTrace, List.foldl_append]

theorem lineAfter_append (d : Dev) (t es : List Event) :
    lineAfter d (t ++ es) = es.foldl (lineStep d) (lineAfter d t) := by
  simp [lineAfter, List.foldl_append]

theorem busAfter_append (t es : List Event) :
    busAfter (t ++ es) = es.foldl busEventStep (busAfter t) := by
  simp [busAfter, List.foldl_append]

/-- What an operation adds to what its own device receives: one frame (spec 10_state R28, 42_cs_sequencer
R126 law 6). The trace must hold no open frame of that device. -/
theorem scanTrace_steps_self (p : Params) (op : Op) (t : List Event) (h : (scanTrace op.dev t).2 = none) :
    scanTrace op.dev (t ++ steps p op) = ((scanTrace op.dev t).1 ++ [frameOf op], none) := by
  rw [scanTrace_append]
  rcases hs : scanTrace op.dev t with ⟨fs, cur⟩
  rw [hs] at h
  simp only at h
  subst h
  cases op with
  | dacWrite c v => simp [steps, dacWriteSteps, transfers, encDac, scanEvent, Op.dev, frameOf]
  | swWrite m => simp [steps, swWriteSteps, transfers, encSw, scanEvent, Op.dev, frameOf]
  | dacInit =>
    rcases h : p.initWaitsDac with ⟨_ | _, _ | _, _ | _, _ | _⟩ <;>
      simp [steps, dacInitSteps, slot, transfers, encDacInit, scanEvent, Op.dev, frameOf, h]
  | swInit =>
    rcases h : p.initWaitsSw with ⟨_ | _, _ | _, _ | _, _ | _⟩ <;>
      simp [steps, swInitSteps, slot, transfers, encSwInit, scanEvent, Op.dev, frameOf, h]

/-- What an operation adds to what the other device receives: nothing. -/
theorem scanTrace_steps_other (p : Params) (op : Op) (d : Dev) (t : List Event) (hd : op.dev ≠ d)
    (h : (scanTrace d t).2 = none) : scanTrace d (t ++ steps p op) = scanTrace d t := by
  rw [scanTrace_append]
  rcases hs : scanTrace d t with ⟨fs, cur⟩
  rw [hs] at h
  simp only at h
  subst h
  have hd' : op.dev = d ↔ False := ⟨hd, False.elim⟩
  cases op with
  | dacWrite c v => cases d <;> simp_all [steps, dacWriteSteps, transfers, encDac, scanEvent, Op.dev]
  | swWrite m => cases d <;> simp_all [steps, swWriteSteps, transfers, encSw, scanEvent, Op.dev]
  | dacInit =>
    rcases h : p.initWaitsDac with ⟨_ | _, _ | _, _ | _, _ | _⟩ <;> cases d <;>
      simp_all [steps, dacInitSteps, slot, transfers, encDacInit, scanEvent, Op.dev]
  | swInit =>
    rcases h : p.initWaitsSw with ⟨_ | _, _ | _, _ | _, _ | _⟩ <;> cases d <;>
      simp_all [steps, swInitSteps, slot, transfers, encSwInit, scanEvent, Op.dev]

end Sys2Proof.Machine
end

