-- ==== Sys2Proof/Tests/Slice0.lean ====
section
/-! SUPPORT. The model's own tests: what is ill-formed and is refused, the words and vectors of the spec
(95_test_vectors), and for every statement that has hypotheses a concrete case that meets them all. -/

namespace Sys2Proof.Tests

open Sys2Proof Sys2Proof.Machine Sys2Proof.Safety

/-! ## Ill-formed terms, and bytes and lines that are refused -/

theorem test_wf_named_request : (Instr.dacWrite 0x18#8 0x1234#16).wellFormed = false := by decide
theorem test_wf_named_frame : (Instr.frameDacWrite 0x2F#8 0x0000#16).wellFormed = false := by decide
theorem test_wf_init_frame : (Instr.frameDacWrite 0x14#8 0x0001#16).wellFormed = false := by decide
theorem test_wf_open_frame : (Instr.frameSwWrite 0x00#8).wellFormed = false := by decide
theorem test_wf_neighbours :
    (Instr.frameDacWrite 0x14#8 0x0000#16).wellFormed ∧ (Instr.frameDacWrite 0x15#8 0x0001#16).wellFormed ∧
    (Instr.dacWrite 0x14#8 0x0001#16).wellFormed ∧ (Instr.frameSwWrite 0x01#8).wellFormed := by decide

/-- A DAC frame has exactly three bytes and a switch frame exactly one (20_memory R50, 30_encoding R63). -/
theorem test_frame_lengths :
    decodeBytes .dac24 [0x18#8, 0x12#8] = .error (.wrongLength .dac24 2) ∧
    decodeBytes .dac24 [0x18#8, 0x12#8, 0x34#8, 0x00#8] = .error (.wrongLength .dac24 4) ∧
    decodeBytes .sw8 [] = .error (.wrongLength .sw8 0) ∧
    decodeBytes .req26 [0x04#8, 0x00#8, 0x00#8, 0x00#8] = .error (.wordTooWide .req26) := by
  refine ⟨rfl, rfl, rfl, ?_⟩
  simp [decodeBytes, codeOfBytes, formatBytes, frameNumber]

/-! ## Words, written out from the encodings of the spec -/

/-- `00` and 24 ignored bits (R73, R81). -/
theorem test_decode_dac_init : decode (.req26 0b00101010101010101010101010#26) = .dacInit := by decide
/-- `01 cccccccc hhhhhhhh llllllll` (R73, R82). -/
theorem test_decode_dac_write :
    decode (.req26 0b01000110100101010101010101#26) = .dacWrite 0b00011010#8 0b0101010101010101#16 := by decide
/-- T2: `DAC.WRITE CHN_1, 0x1234`. -/
theorem test_decode_chn1 : decode (.req26 0b01000110000001001000110100#26) = .dacWriteChn1 0x1234#16 := by decide
/-- T2: `DAC.WRITE CHN_2, 0xABCD`. -/
theorem test_decode_chn2 : decode (.req26 0b01000110011010101111001101#26) = .dacWriteChn2 0xABCD#16 := by decide
/-- T2: `DAC.WRITE CHN_ALL, 0x7FFF`. -/
theorem test_decode_chnAll : decode (.req26 0b01111110000111111111111111#26) = .dacWriteChnAll 0x7FFF#16 := by decide
/-- T2: `DAC.WRITE RESET, 0x1234`. -/
theorem test_decode_reset : decode (.req26 0b01001011110001001000110100#26) = .dacWriteReset 0x1234#16 := by decide
/-- `10` and 24 ignored bits (R73, R101). -/
theorem test_decode_sw_init : decode (.req26 0b10110000000000000000000001#26) = .swInit := by decide
/-- `11`, 16 ignored bits, `mmmmmmmm`; T4: `0x3ABCDA5`. -/
theorem test_decode_sw_write : decode (.req26 0b11101010111100110110100101#26) = .swWrite 0xA5#8 := by decide
/-- T3: the frame `1A 55 55`. -/
theorem test_decode_frame : decode (.dac24 0b000110100101010101010101#24) = .frameDacWrite 0x1A#8 0x5555#16 := by decide
/-- T2: the frame `18 80 00`. -/
theorem test_decode_frame_chn1 : decode (.dac24 0b000110001000000000000000#24) = .frameDacWriteChn1 0x8000#16 := by decide
/-- T2: the frame `19 AB CD`. -/
theorem test_decode_frame_chn2 : decode (.dac24 0b000110011010101111001101#24) = .frameDacWriteChn2 0xABCD#16 := by decide
/-- T2: the frame `F8 7F FF`. -/
theorem test_decode_frame_chnAll : decode (.dac24 0b111110000111111111111111#24) = .frameDacWriteChnAll 0x7FFF#16 := by
  decide
/-- T2: the frame `2F 12 34`. -/
theorem test_decode_frame_reset : decode (.dac24 0b001011110001001000110100#24) = .frameDacWriteReset 0x1234#16 := by decide
/-- V3: the frame `14 00 01`. -/
theorem test_decode_frame_dac_init : decode (.dac24 0b000101000000000000000001#24) = .frameDacInit := by decide
/-- T4: the byte `5A`. -/
theorem test_decode_frame_sw : decode (.sw8 0b01011010#8) = .frameSwWrite 0x5A#8 := by decide
/-- V4: the byte `00`. -/
theorem test_decode_frame_sw_init : decode (.sw8 0b00000000#8) = .frameSwInit := by decide

/-- A row's word comes through the byte decoder, the first word of the table's numbering at bit 0. -/
theorem test_table_word :
    decodeTableWord 32 0x1188000 = some (.dacWriteChn1 0x8000#16) ∧ decodeTableWord 24 0x140001 = some .frameDacInit ∧
    decodeTableWord 8 0x81 = some (.frameSwWrite 0x81#8) ∧ decodeTableWord 32 0x4000000 = none := by decide

/-- 30_encoding R72: the init frames have two readings each. -/
theorem test_readings :
    readings (.sw8 0x00#8) = [.frameSwInit, .frameSwWrite 0x00#8] ∧
    readings (.dac24 0x18ABCD#24) = [.frameDacWriteChn1 0xABCD#16, .frameDacWrite 0x18#8 0xABCD#16] := by decide

/-- T6: the serial bits of `18 12 34`, and the byte `01` in both orders. -/
theorem test_serial_bits :
    frameBits .msbFirst [0x18#8, 0x12#8, 0x34#8] =
      [false, false, false, true, true, false, false, false, false, false, false, true, false, false, true, false,
        false, false, true, true, false, true, false, false] ∧
    frameBits .lsbFirst [0x01#8] = [true, false, false, false, false, false, false, false] := by decide

/-! ## The text of a request (30_encoding R75, R76) -/

theorem test_text_named : assemble "DAC.WRITE CHN_1, 0x8000".toList = .ok (.dacWriteChn1 0x8000#16) := by decide
theorem test_text_literal : assemble "DAC.WRITE 0b00011010, 21845".toList = .ok (.dacWrite 0x1A#8 0x5555#16) := by decide
theorem test_text_init : assemble "SW.INIT".toList = .ok .swInit := by decide
theorem test_text_mask : assemble "SW.WRITE 0xA5".toList = .ok (.swWrite 0xA5#8) := by decide
theorem test_text_mask_too_wide : assemble "SW.WRITE 256".toList = .error (.literalTooWide 256 8) := by decide
theorem test_text_value_too_wide :
    assemble "DAC.WRITE 0x18, 0x10000".toList = .error (.literalTooWide 65536 16) := by decide
theorem test_text_operands : assemble "DAC.INIT 1".toList = .error .wrongOperandCount := by decide

/-! ## The event lists of the spec (V8, T7), with the sample parameters -/

theorem test_steps_dac_init :
    dacInitSteps .sample =
      [.pinOutput .dac, .csSet .dac .high, .busBegin (Params.sample.cfg .dac), .csSet .dac .low, .wait,
        .transfer 0x14#8, .transfer 0x00#8, .transfer 0x01#8, .wait, .csSet .dac .high, .busEnd] := by decide
theorem test_steps_dac_init_all_waits :
    dacInitSteps { Params.sample with initWaitsDac := ⟨true, true, true, true⟩ } =
      [.pinOutput .dac, .csSet .dac .high, .busBegin (Params.sample.cfg .dac), .wait, .csSet .dac .low, .wait,
        .transfer 0x14#8, .transfer 0x00#8, .transfer 0x01#8, .wait, .csSet .dac .high, .wait, .busEnd] := by decide
theorem test_steps_sw_init :
    swInitSteps { Params.sample with initWaitsSw := ⟨true, false, false, true⟩ } =
      [.pinOutput .sw, .csSet .sw .high, .busBegin (Params.sample.cfg .sw), .wait, .csSet .sw .low,
        .transfer 0x00#8, .csSet .sw .high, .wait, .busEnd] := by decide
theorem test_steps_dac_write :
    dacWriteSteps .sample 0x18#8 0x1234#16 =
      [.csSet .dac .low, .busBegin (Params.sample.cfg .dac), .transfer 0x18#8, .transfer 0x12#8, .transfer 0x34#8,
        .wait, .csSet .dac .high, .busEnd] := by decide
theorem test_steps_sw_write :
    swWriteSteps .sample 0xA5#8 =
      [.busBegin (Params.sample.cfg .sw), .csSet .sw .low, .wait, .transfer 0xA5#8, .wait, .csSet .sw .high,
        .busEnd] := by decide

/-! ## States for the tests -/

/-- Both drivers Ready, both lines outputs and High. -/
def ready : State :=
  { State.reset with st := ⟨.ready, .ready⟩, oe := ⟨true, true⟩, cs := ⟨some .high, some .high⟩ }

/-- The switch driver Ready, the DAC's Uninitialized. -/
def swReady : State := { ready with st := ⟨.uninitialized, .ready⟩ }

/-- Event `k` of `DAC.WRITE 0x1A, 0x5555` is next. -/
def writing (k : Nat) : State := { ready with seq := .run (.dacWrite 0x1A#8 0x5555#16) k }

/-- A request for `DAC.INIT`, to run one event a step, stands before the block after reset. -/
def fresh : State := { State.reset with inputs := [.start (.req26 0x0000000#26)] }

/-- `DAC.INIT` has run from reset, with no waits; a request for `DAC.WRITE CHN_1, 0x8000` stands before it. -/
def dacDone : State :=
  { State.reset with
    st := ⟨.ready, .uninitialized⟩
    oe := ⟨true, false⟩
    cs := ⟨some .high, none⟩
    busCfg := some (Config.params.cfg .dac)
    trace := [.pinOutput .dac, .csSet .dac .high, .busBegin (Config.params.cfg .dac), .csSet .dac .low,
      .transfer 0x14#8, .transfer 0x00#8, .transfer 0x01#8, .csSet .dac .high, .busEnd]
    inputs := [.call (.req26 0x1188000#26)] }

/-! ## Acceptance (T8, T9) -/

theorem test_accept_write_reset : exec (.dacWriteChn1 0x0000#16) .reset = .refused (.writeBeforeInit .dac) := rfl
theorem test_accept_sw_reset : exec (.swWrite 0xFF#8) .reset = .refused (.writeBeforeInit .sw) := rfl
theorem test_accept_other_driver : exec (.dacWriteChn1 0x0000#16) swReady = .refused (.writeBeforeInit .dac) := rfl
theorem test_accept_busy : exec .dacInit (writing 3) = .refused .busy := rfl
theorem test_accept_sw_ready : ∃ t, exec (.swWrite 0xFF#8) swReady = .next t ∧ t.trace.length = 7 := ⟨_, rfl, rfl⟩
theorem test_accept_unlisted : ∃ t, exec (.dacWrite 0x1A#8 0#16) ready = .next t ∧ bytesOf t.trace = [0x1A#8, 0#8, 0#8] :=
  ⟨_, rfl, rfl⟩
theorem test_init_twice : ∃ t u, exec .dacInit .reset = .next t ∧ exec .dacInit t = .next u :=
  ⟨_, _, (exec_eq_request _ _).trans (request_of_accepted rfl), (exec_eq_request _ _).trans (request_of_accepted rfl)⟩

/-- The word that the host places is executed by the very next step, from reset. -/
theorem test_fetch_init :
    ∃ t, step (State.reset.withFetchWord 32 0x0000000) = .next t ∧ t.st.get .dac = .ready ∧ t.refusedSeen = false :=
  ⟨completed Config.params .dacInit .reset, congrArg Host.Outcome.next (finish_emitAll _ _ _), rfl, rfl⟩

/-! ## Witnesses: states that meet the hypotheses of the statements -/

theorem test_witness_ready :
    ready.seq = .idle ∧ ready.st.get .dac = .ready ∧ ready.st.get .sw = .ready ∧ State.reset.seq = .idle := by decide

theorem test_witness_well_formed : (Instr.dacWriteChnAll 0xFFFF#16).WellFormed ∧ (Instr.frameSwWrite 0xFF#8).WellFormed := by
  decide

theorem test_witness_serial : (23 : Nat) < 24 ∧ ¬ (24 < 24) := by decide

theorem test_witness_literals :
    literalValue "255".toList = some 255 ∧ 255 < 2 ^ 8 ∧ literalValue "0x100".toList = some 256 ∧ 2 ^ 8 ≤ 256 ∧
    literalValue "0xFFFF".toList = some 65535 ∧ 65535 < 2 ^ 16 ∧ literalValue "65536".toList = some 65536 ∧
    2 ^ 16 ≤ 65536 ∧ literalValue "0b0".toList = some 0 := by decide

theorem test_witness_lengths : [0x18#8].length ≠ formatBytes .dac24 := by decide

theorem test_witness_table : decodeTableWord 24 0x18FFFF = some (.frameDacWriteChn1 0xFFFF#16) ∧
    ∃ t, exec (.frameDacWriteChn1 0xFFFF#16) { ready with seq := .idle } = .next t := ⟨rfl, _, rfl⟩

theorem test_witness_unlisted :
    (0x1A#8 ≠ 0x18#8 ∧ 0x1A#8 ≠ 0x19#8 ∧ 0x1A#8 ≠ 0xF8#8 ∧ 0x1A#8 ≠ 0x2F#8) ∧
    (0x17#8 ≠ 0x18#8 ∧ 0x17#8 ≠ 0x19#8 ∧ 0x17#8 ≠ 0xF8#8 ∧ 0x17#8 ≠ 0x2F#8) := by decide

theorem test_witness_uninitialized :
    State.reset.seq = .idle ∧ State.reset.st.get .dac = .uninitialized ∧ State.reset.st.get .sw = .uninitialized ∧
    swReady.st.get .dac = .uninitialized ∧ swReady.st.get .sw = .ready := by decide

/-- A running block, at its first event, in the middle and at its last, and when a write is about to begin. -/
theorem test_witness_running :
    (writing 0).seq = .run (.dacWrite 0x1A#8 0x5555#16) 0 ∧
    (writing 7).seq = .run (.dacWrite 0x1A#8 0x5555#16) 7 ∧
    (steps Config.params (.dacWrite 0x1A#8 0x5555#16)).length = 8 := ⟨rfl, rfl, rfl⟩

/-- Each of the three refusals happens. -/
theorem test_witness_refused :
    exec .swInit (writing 0) = .refused .busy ∧ exec (.frameDacWrite 0x00#8 0#16) .reset = .refused (.writeBeforeInit .dac) ∧
    exec (.frameSwWrite 0x01#8) .reset = .refused (.writeBeforeInit .sw) := ⟨rfl, rfl, rfl⟩

/-- An init from reset and a write of each driver answer a next state; the other driver is another one. -/
theorem test_witness_next :
    (∃ t, exec .dacInit .reset = .next t) ∧ (∃ t, exec .swInit .reset = .next t) ∧
    (∃ t, exec (.dacWriteReset 0#16) ready = .next t) ∧ (∃ t, exec (.swWrite 0#8) ready = .next t) ∧
    (∃ t, exec (.swWrite 0#8) swReady = .next t) ∧
    Dev.sw ≠ (opOf .dacInit).dev ∧ Dev.dac ≠ (opOf (.swWrite 0#8)).dev :=
  ⟨⟨_, rfl⟩, ⟨_, rfl⟩, ⟨_, rfl⟩, ⟨_, rfl⟩, ⟨_, rfl⟩, by decide, by decide⟩

theorem test_witness_other_writes :
    (Instr.swWrite 0#8 ≠ .dacInit ∧ Instr.swWrite 0#8 ≠ .frameDacInit) ∧
    (Instr.dacInit ≠ .swInit ∧ Instr.dacInit ≠ .frameSwInit) := by decide

theorem test_witness_no_open_frame : ∀ d, openFrame d ready.trace = none := by
  intro d
  rfl

/-- A run of one step, whatever the bus was configured to. -/
theorem test_witness_run : runSteps 1 (writing 0) = .next (advance Config.params (.dacWrite 0x1A#8 0x5555#16) 0 (writing 0)) :=
  rfl

/-- The second byte of a DAC write, with what stands before it and after it. -/
theorem test_witness_transfer (p : Params) :
    steps p (.dacWrite 0x18#8 0x1234#16) =
      [.csSet .dac .low, .busBegin (p.cfg .dac), .transfer 0x18#8] ++ .transfer 0x12#8 ::
        [.transfer 0x34#8, .wait, .csSet .dac .high, .busEnd] := rfl

/-- Events of an operation that stand for calls on each of the three interfaces. -/
theorem test_witness_calls (p : Params) :
    Event.pinOutput .dac ∈ steps p .dacInit ∧ Call.setOutput p.csDac ∈ (Event.pinOutput .dac).calls p ∧
    Event.csSet .dac .low ∈ steps p (.dacWrite 0#8 0#16) ∧
    Call.driveLine p.csDac .low ∈ (Event.csSet .dac .low).calls p ∧
    Event.busBegin (p.cfg .sw) ∈ steps p (.swWrite 0#8) ∧
    Call.beginTransaction (p.cfg .sw) ∈ (Event.busBegin (p.cfg .sw)).calls p ∧
    Event.wait ∈ steps p (.swWrite 0#8) ∧ Call.blockMicros p.settle ∈ Event.wait.calls p := by
  simp [steps, dacInitSteps, dacWriteSteps, swWriteSteps, Event.calls, Params.csOf]

/-- The line of a device that a memory write needs Low is not Low after reset. -/
theorem test_witness_not_selected : State.reset.cs.get .dac ≠ some .low ∧ State.reset.cs.get .sw ≠ some .low := by decide

/-- The DAC selected, inside a transaction with its configuration. -/
def selected : State :=
  { ready with cs := ⟨some .low, some .high⟩, busOpen := true, busCfg := some (Params.sample.cfg .dac) }

/-- `MemWrite(DAC, 3, 0x181234)` and the largest number of three bytes have a meaning there, and so does one byte. -/
theorem test_witness_mem_write :
    (∃ t, memWrite .sample .dac 3 0x181234 selected = some t ∧
      bytesOf t.trace = [0x18#8, 0x12#8, 0x34#8]) ∧
    MemWriteDefined .sample .dac 3 0xFFFFFF selected ∧ MemWriteDefined .sample .dac 1 0xFF selected :=
  ⟨⟨_, rfl, by decide⟩, by decide, by decide⟩

/-- No meaning: another number of bytes, too large a number, the other device, a bus ended or begun for the other. -/
theorem test_mem_write_undefined :
    memWrite .sample .dac 2 0 selected = none ∧ memWrite .sample .dac 3 0x1000000 selected = none ∧
    memWrite .sample .dac 1 0x100 selected = none ∧ memWrite .sample .sw 1 0 selected = none ∧
    memWrite .sample .dac 3 0 { selected with busOpen := false } = none ∧
    memWrite .sample .dac 3 0 { selected with busCfg := some (Params.sample.cfg .sw) } = none := by decide

/-- An idle block with a request before it that is accepted, one that is refused, and an environment's move. -/
theorem test_witness_inputs :
    dacDone.seq = .idle ∧ dacDone.inputs = .call (.req26 0x1188000#26) :: [] ∧
    (∃ t, exec (decode (.req26 0x1188000#26)) { dacDone with inputs := [] } = .next t) ∧
    exec (decode (.req26 0x30000FF#26)) { dacDone with inputs := [] } = .refused (.writeBeforeInit .sw) :=
  ⟨rfl, rfl, ⟨_, rfl⟩, rfl⟩

theorem test_witness_environment :
    ({ ready with inputs := [.env (Params.sample.cfg .sw)] } : State).seq = .idle ∧
    ({ ready with inputs := [.env (Params.sample.cfg .sw)] } : State).inputs = .env (Params.sample.cfg .sw) :: [] := ⟨rfl, rfl⟩

theorem test_witness_small_steps :
    refusalOf (opOf (decode (.req26 0x1188000#26))) ready = none ∧
    refusalOf (opOf (decode (.req26 0x1188000#26))) State.reset ≠ none := by decide

/-- P4, with moves of the environment between its requests: a list with no `start`. -/
def p4 : List Input :=
  [.call (.req26 0x2000000#26), .env (Params.sample.cfg .sw), .call (.req26 0x1181234#26),
    .call (.req26 0x0000000#26), .env (Params.sample.cfg .dac), .call (.req26 0x1181234#26)]

theorem test_witness_program : ∀ w, Input.start w ∉ p4 := by simp [p4]

/-- P4: which of its four requests are accepted. -/
theorem test_p4_accepted :
    acceptedOps State.reset.st (opsOf p4) = [.swInit, .dacInit, .dacWrite 0x18#8 0x1234#16] ∧ (opsOf p4).length = 4 := by
  decide

/-! ## Witnesses: lawful states -/

/-- Law 4 holds of the trace of `dacDone`: each of its three transfers stands in the DAC's span. -/
theorem scoped_dacDone : TransfersScoped Config.params dacDone.trace := by
  intro before b after h
  rcases before with _ | ⟨_, _ | ⟨_, _ | ⟨_, _ | ⟨_, _ | ⟨_, _ | ⟨_, _ | ⟨_, _ | ⟨_, _ | ⟨_, rest⟩⟩⟩⟩⟩⟩⟩⟩⟩ <;>
    simp only [dacDone, List.nil_append, List.cons_append, List.cons.injEq, reduceCtorEq, false_and, and_false] at h
  · obtain ⟨rfl, rfl, rfl, rfl, -⟩ := h
    exact ⟨.dac, rfl, rfl⟩
  · obtain ⟨rfl, rfl, rfl, rfl, rfl, -⟩ := h
    exact ⟨.dac, rfl, rfl⟩
  · obtain ⟨rfl, rfl, rfl, rfl, rfl, rfl, -⟩ := h
    exact ⟨.dac, rfl, rfl⟩
  · simp at h

theorem laws_fresh : IdleLaws Config.params fresh := by
  refine ⟨fun d h => ?_, fun d _ => ?_, rfl, fun d => ?_, fun d => ?_, rfl, fun d => ?_, ?_, ?_, ?_, ?_, ?_, rfl⟩
  · cases d <;> cases h
  · cases d <;> exact ⟨rfl, rfl, rfl⟩
  · cases d <;> rfl
  · cases d <;> simp [fresh, State.reset, PerDev.get]
  · cases d <;> rfl
  · intro before b after h
    simp [fresh, State.reset] at h
  all_goals intro f hf; cases hf

theorem laws_dacDone : IdleLaws Config.params dacDone := by
  refine ⟨fun d h => ?_, fun d h => ?_, rfl, fun d => ?_, fun d => ?_, rfl, fun d => ?_, scoped_dacDone, ?_, ?_, ?_, ?_, rfl⟩
  · cases d
    · exact ⟨rfl, rfl, by decide⟩
    · cases h
  · cases d
    · cases h
    · exact ⟨rfl, rfl, rfl⟩
  · cases d <;> rfl
  · cases d <;> simp [dacDone, PerDev.get]
  · cases d <;> rfl
  · intro f hf
    simp [dacDone, frames, scanTrace, scanEvent] at hf
    subst hf
    rfl
  · intro f hf
    simp [dacDone, frames, scanTrace, scanEvent] at hf
  · intro f hf
    simp [dacDone, frames, scanTrace, scanEvent] at hf
    exact hf.symm
  · intro f hf
    simp [dacDone, frames, scanTrace, scanEvent] at hf

/-- A lawful idle state, before any init and after one, from which a step goes on and an operation is accepted. -/
theorem test_witness_lawful :
    Lawful Config.params fresh ∧ (∃ t, step fresh = .next t) ∧ refusalOf .dacInit fresh = none ∧
    Lawful Config.params dacDone ∧ (∃ t, exec (.dacWriteChn1 0x8000#16) dacDone = .next t) ∧
    dacDone.cs.get .dac = some .high ∧ dacDone.cs.get .sw = none :=
  ⟨laws_fresh, ⟨_, rfl⟩, rfl, laws_dacDone, ⟨_, rfl⟩, rfl, rfl⟩

/-- A lawful state in the middle of a write: the DAC's line is Low and one byte of its frame is sent. -/
theorem test_witness_midway :
    Lawful Config.params { emitAll ((steps Config.params (.dacWrite 0x18#8 0x8000#16)).take 3) dacDone with
      seq := .run (.dacWrite 0x18#8 0x8000#16) 3 } ∧
    (emitAll ((steps Config.params (.dacWrite 0x18#8 0x8000#16)).take 3) dacDone).cs.get .dac = some .low ∧
    openFrame .dac (emitAll ((steps Config.params (.dacWrite 0x18#8 0x8000#16)).take 3) dacDone).trace = some [0x18#8] :=
  ⟨⟨by decide, dacDone, laws_dacDone, rfl, rfl⟩, rfl, rfl⟩

/-- After the first events of an init and of a write nothing is undone that was done. -/
theorem test_witness_nothing_undone :
    ∃ t, step { writing 0 with refusedSeen := true } = .next t ∧ (writing 0).st.get .dac = .ready ∧
      (writing 0).oe.get .dac = true := ⟨_, rfl, rfl, rfl⟩

end Sys2Proof.Tests
end

section
/-! SUPPORT. Frames as memory writes (spec 00_scope R11, 20_memory R46, 42_cs_sequencer R126 law 4): a frame's
bytes are the bytes that `MemWrite` takes out of its number, and the events before the frame of an operation
bring about everything that `MemWrite` asks of the state. -/

namespace Sys2Proof.Machine

/-! ## The number of a frame and the bytes of a number -/

/-- The fold of `frameNumber`, begun at any number: that number stands above the frame's bits. -/
theorem foldl_eq_add_frameNumber (n : Nat) (bytes : List Byte) :
    bytes.foldl (fun n b => n * 256 + b.toNat) n = n * 2 ^ (8 * bytes.length) + frameNumber bytes := by
  unfold frameNumber
  induction bytes generalizing n with
  | nil => simp
  | cons b bytes ih =>
    rw [List.foldl_cons, List.foldl_cons, ih, ih (0 * 256 + b.toNat), List.length_cons]
    ring

theorem frameNumber_cons (b : Byte) (bytes : List Byte) :
    frameNumber (b :: bytes) = b.toNat * 2 ^ (8 * bytes.length) + frameNumber bytes := by
  simpa [frameNumber] using foldl_eq_add_frameNumber b.toNat bytes

theorem frameNumber_lt (bytes : List Byte) : frameNumber bytes < 2 ^ (8 * bytes.length) := by
  induction bytes with
  | nil => simp [frameNumber]
  | cons b bytes ih =>
    have hb : b.toNat + 1 ≤ 2 ^ 8 := b.isLt
    calc frameNumber (b :: bytes)
        < (b.toNat + 1) * 2 ^ (8 * bytes.length) := by rw [frameNumber_cons]; linarith
      _ ≤ 2 ^ 8 * 2 ^ (8 * bytes.length) := Nat.mul_le_mul_right _ hb
      _ = 2 ^ (8 * (b :: bytes).length) := by rw [List.length_cons, Nat.mul_succ, pow_add, mul_comm]

@[simp] theorem frameNumber_encDac (c : Byte) (v : Half) :
    frameNumber (encDac c v) = c.toNat * 65536 + v.toNat := by
  simp [encDac, frameNumber, hiByte_toNat, loByte_toNat]
  omega

@[simp] theorem frameNumber_encSw (m : Byte) : frameNumber (encSw m) = m.toNat := by
  simp [encSw, frameNumber]

/-- Of a number, `MemWrite` sends the low `n` bytes only. -/
theorem memWriteSteps_add_mul (n a v : Nat) : memWriteSteps n (a * 2 ^ (8 * n) + v) = memWriteSteps n v := by
  induction n generalizing a with
  | zero => rfl
  | succ k ih =>
    have hsplit : a * 2 ^ (8 * (k + 1)) + v = a * 256 * 2 ^ (8 * k) + v := by ring
    have hbyte : BitVec.ofNat 8 ((a * 256 * 2 ^ (8 * k) + v) / 2 ^ (8 * k)) = BitVec.ofNat 8 (v / 2 ^ (8 * k)) := by
      have hdiv : (a * 256 * 2 ^ (8 * k) + v) / 2 ^ (8 * k) = v / 2 ^ (8 * k) + 256 * a := by
        rw [add_comm, Nat.add_mul_div_right _ _ (by positivity), mul_comm a]
      apply BitVec.eq_of_toNat_eq
      simp [hdiv]
    rw [hsplit, memWriteSteps, memWriteSteps, hbyte, ih]

/-- `MemWrite` of a frame's number puts the frame on the bus, the first byte first. -/
theorem memWriteSteps_frameNumber (bytes : List Byte) :
    memWriteSteps bytes.length (frameNumber bytes) = transfers bytes := by
  induction bytes with
  | nil => rfl
  | cons b bytes ih =>
    have htop : frameNumber (b :: bytes) / 2 ^ (8 * bytes.length) = b.toNat := by
      rw [frameNumber_cons, add_comm, Nat.add_mul_div_right _ _ (by positivity),
        Nat.div_eq_of_lt (frameNumber_lt bytes), zero_add]
    rw [List.length_cons, memWriteSteps, htop, frameNumber_cons, memWriteSteps_add_mul, ih]
    simp [transfers]

/-- What `MemWrite` sends are transfers. -/
theorem memWriteSteps_eq_transfers (n v : Nat) : ∃ bytes, memWriteSteps n v = transfers bytes := by
  induction n with
  | zero => exact ⟨[], rfl⟩
  | succ k ih =>
    obtain ⟨bytes, h⟩ := ih
    exact ⟨_ :: bytes, by rw [memWriteSteps, h]; rfl⟩

theorem emitAll_memWriteSteps (n v : Nat) (s : State) :
    emitAll (memWriteSteps n v) s = { s with trace := s.trace ++ memWriteSteps n v } := by
  obtain ⟨bytes, h⟩ := memWriteSteps_eq_transfers n v
  rw [h, emitAll_transfers]

/-- A frame of one or three bytes is a `MemWrite` wherever its device is selected in a transaction of its own. -/
theorem memWrite_frame {p : Params} {d : Dev} {frame : List Byte} {s : State}
    (hlen : frame.length = 1 ∨ frame.length = 3) (hcs : s.cs.get d = some .low) (hopen : s.busOpen = true)
    (hcfg : s.busCfg = some (p.cfg d)) :
    memWrite p d frame.length (frameNumber frame) s = some (emitAll (transfers frame) s) :=
  memWrite_eq_some.mpr ⟨⟨hlen, frameNumber_lt frame, hcs, hopen, hcfg⟩, by rw [memWriteSteps_frameNumber]⟩

/-! ## An operation around its frame -/

theorem frameOf_length (op : Op) : (frameOf op).length = 1 ∨ (frameOf op).length = 3 := by
  cases op with
  | dacInit => exact .inr rfl
  | dacWrite c v => exact .inr rfl
  | swInit => exact .inl rfl
  | swWrite m => exact .inl rfl

/-- The events of an operation before its frame. -/
def beforeFrame (p : Params) : Op → List Event
  | .dacInit => [.pinOutput .dac, .csSet .dac .high, .busBegin (p.cfg .dac)] ++ slot p.initWaitsDac.w0 ++
      [.csSet .dac .low] ++ slot p.initWaitsDac.w1
  | .dacWrite _ _ => [.csSet .dac .low, .busBegin (p.cfg .dac)]
  | .swInit => [.pinOutput .sw, .csSet .sw .high, .busBegin (p.cfg .sw)] ++ slot p.initWaitsSw.w0 ++
      [.csSet .sw .low] ++ slot p.initWaitsSw.w1
  | .swWrite _ => [.busBegin (p.cfg .sw), .csSet .sw .low, .wait]

/-- The events of an operation after its frame. -/
def afterFrame (p : Params) : Op → List Event
  | .dacInit => slot p.initWaitsDac.w2 ++ [.csSet .dac .high] ++ slot p.initWaitsDac.w3 ++ [.busEnd]
  | .dacWrite _ _ => [.wait, .csSet .dac .high, .busEnd]
  | .swInit => slot p.initWaitsSw.w2 ++ [.csSet .sw .high] ++ slot p.initWaitsSw.w3 ++ [.busEnd]
  | .swWrite _ => [.wait, .csSet .sw .high, .busEnd]

theorem steps_eq_around_frame (p : Params) (op : Op) :
    steps p op = beforeFrame p op ++ transfers (frameOf op) ++ afterFrame p op := by
  cases op with
  | dacInit => simp [steps, dacInitSteps, beforeFrame, afterFrame, frameOf]
  | dacWrite c v => rfl
  | swInit => simp [steps, swInitSteps, beforeFrame, afterFrame, frameOf]
  | swWrite m => rfl

/-- A wait slot, filled or not, changes nothing but the trace. -/
theorem emitAll_slot (filled : Bool) (s : State) :
    emitAll (slot filled) s = { s with trace := s.trace ++ slot filled } := by
  cases filled with
  | false => simp [slot]
  | true => rfl

/-- Before its frame, an operation selects its device and begins a transaction with that device's configuration
(spec 42_cs_sequencer R126 law 4). -/
theorem emitAll_beforeFrame (p : Params) (op : Op) (s : State) :
    (emitAll (beforeFrame p op) s).cs.get op.dev = some .low ∧
      (emitAll (beforeFrame p op) s).busOpen = true ∧
      (emitAll (beforeFrame p op) s).busCfg = some (p.cfg op.dev) := by
  cases op with
  | dacInit => simp [beforeFrame, emitAll_append, emitAll_slot, Op.dev]
  | dacWrite c v => simp [beforeFrame, Op.dev]
  | swInit => simp [beforeFrame, emitAll_append, emitAll_slot, Op.dev]
  | swWrite m => simp [beforeFrame, Op.dev]

/-- In every operation the frame is a `MemWrite` that has its meaning, whatever the state before. -/
theorem memWrite_frameOf (p : Params) (op : Op) (s : State) :
    memWrite p op.dev (frameOf op).length (frameNumber (frameOf op)) (emitAll (beforeFrame p op) s) =
      some (emitAll (beforeFrame p op ++ transfers (frameOf op)) s) := by
  obtain ⟨hcs, hopen, hcfg⟩ := emitAll_beforeFrame p op s
  rw [emitAll_append, memWrite_frame (frameOf_length op) hcs hopen hcfg]

end Sys2Proof.Machine

namespace Sys2Proof

open Machine

/-- Settles O43: both lists of bytes are cases of `memWriteSteps_frameNumber`, and an operation is cut at
`beforeFrame` and `afterFrame`. -/
theorem framesAreMemWrites : Obligations.FramesAreMemWrites := by
  unfold Obligations.FramesAreMemWrites
  refine ⟨fun p d n v s => ?_, fun p d n v s t h => ?_, fun c v => ?_, fun m => ?_, fun p op s => ?_⟩
  · simp only [memWrite_eq_some, exists_and_left, exists_eq', and_true]
  · obtain ⟨-, rfl⟩ := memWrite_eq_some.mp h
    exact emitAll_memWriteSteps n v s
  · rw [← frameNumber_encDac]
    exact memWriteSteps_frameNumber (encDac c v)
  · rw [← frameNumber_encSw]
    exact memWriteSteps_frameNumber (encSw m)
  · exact ⟨beforeFrame p op, afterFrame p op, steps_eq_around_frame p op, memWrite_frameOf p op s⟩

end Sys2Proof
end

section
/-! SUPPORT. The state's own rules (spec 10_state): what one step of the idle block does, case by case;
that `bus.cfg` is written and never read (R26); that the select lines are what the trace tells of them (R23); and
what is accepted right after reset (R36). -/

namespace Sys2Proof.Machine

/-! ## What an instruction is accepted for -/

/-- `exec` answers a next state exactly when its operation is accepted. -/
theorem exec_next_iff_accepted (i : Instr) (s : State) :
    (∃ t, exec i s = .next t) ↔ refusalOf (opOf i) s = none := by
  constructor
  · rintro ⟨t, h⟩
    exact (exec_next h).1
  · intro h
    exact ⟨_, (exec_eq_request i s).trans (request_of_accepted h)⟩

/-- The instructions that ask for an init: the two request rows and the two shared frames (log entry 10). -/
theorem opOf_isInit (i : Instr) :
    (opOf i).isInit = true ↔ i = .dacInit ∨ i = .swInit ∨ i = .frameDacInit ∨ i = .frameSwInit := by
  cases i <;> simp [opOf, Op.isInit]

/-- With both drivers Uninitialized the only accepted operations are the inits. -/
theorem refusalOf_reset_eq_none (op : Op) : refusalOf op State.reset = none ↔ op.isInit = true := by
  have hst : State.reset.st.get op.dev = .uninitialized := by cases op <;> rfl
  have hseq : State.reset.seq = .idle := rfl
  simp [refusalOf_eq_none, hst, hseq]

/-! ## The cases of a step of the idle block, from what holds before it -/

theorem step_noInput {s : State} (hq : s.seq = .idle) (hi : s.inputs = []) : step s = .next s := by
  rw [step_idle hq, serve, hi]

theorem step_env {s : State} {cfg : BusCfg} {rest : List Input} (hq : s.seq = .idle)
    (hi : s.inputs = .env cfg :: rest) : step s = .next { s with busCfg := some cfg, inputs := rest } := by
  rw [step_idle hq, serve, hi]
  rfl

theorem step_call_accepted {s : State} {w : Code} {rest : List Input} (hq : s.seq = .idle)
    (hi : s.inputs = .call w :: rest) (hr : refusalOf (opOf (decode w)) s = none) :
    step s = .next (completed Config.params (opOf (decode w)) { s with inputs := rest }) := by
  have hr' : refusalOf (opOf (decode w)) { s with inputs := rest } = none := hr
  rw [step_idle hq, serve_call hi, request_of_accepted hr']
  rfl

theorem step_start_accepted {s : State} {w : Code} {rest : List Input} (hq : s.seq = .idle)
    (hi : s.inputs = .start w :: rest) (hr : refusalOf (opOf (decode w)) s = none) :
    step s = .next { s with inputs := rest, seq := .run (opOf (decode w)) 0 } := by
  have hr' : refusalOf (opOf (decode w)) { s with inputs := rest } = none := hr
  rw [step_idle hq, serve_start hi, accept, hr']
  rfl

theorem step_request_refused {s : State} {w : Code} {rest : List Input} (hq : s.seq = .idle)
    (hi : s.inputs = .call w :: rest ∨ s.inputs = .start w :: rest)
    (hr : refusalOf (opOf (decode w)) s ≠ none) :
    step s = .next { s with inputs := rest, refusedSeen := true } := by
  obtain ⟨r, hr⟩ := Option.ne_none_iff_exists'.mp hr
  have hr' : refusalOf (opOf (decode w)) { s with inputs := rest } = some r := hr
  rcases hi with hi | hi
  · rw [step_idle hq, serve_call hi, request_of_refused hr', settle_refused hr]
    rfl
  · rw [step_idle hq, serve_start hi, accept, hr']
    exact settle_refused hr

/-! ## `bus.cfg` is never read -/

/-- A request sets `bus.cfg` to its own, so that nothing is left of what stood there. -/
theorem request_setBusCfg (p : Params) (op : Op) (s : State) (cfg : Option BusCfg) :
    request p op { s with busCfg := cfg } = request p op s := by
  have href : refusalOf op { s with busCfg := cfg } = refusalOf op s := rfl
  rcases request_cases p op s with ⟨ha, h⟩ | ⟨r, ha, h⟩
  · rw [h, request_of_accepted (href.trans ha)]
    rfl
  · rw [h, request_of_refused (href.trans ha)]

theorem exec_setBusCfg (i : Instr) (s : State) (cfg : Option BusCfg) :
    exec i { s with busCfg := cfg } = exec i s := by
  rw [exec_eq_request, exec_eq_request, request_setBusCfg]

theorem emit_setBusCfg (e : Event) (s : State) (cfg : Option BusCfg) :
    ∃ c, emit e { s with busCfg := cfg } = { emit e s with busCfg := c } := by
  cases e <;> exact ⟨_, rfl⟩

theorem finish_setBusCfg (op : Op) (s : State) (cfg : Option BusCfg) :
    finish op { s with busCfg := cfg } = { finish op s with busCfg := cfg } := by
  unfold finish
  split <;> rfl

theorem advance_setBusCfg (p : Params) (op : Op) (k : Nat) (s : State) (cfg : Option BusCfg) :
    ∃ c, advance p op k { s with busCfg := cfg } = { advance p op k s with busCfg := c } := by
  cases he : (steps p op)[k]? with
  | none => exact ⟨cfg, by rw [advance_past he, advance_past he]⟩
  | some e =>
    obtain ⟨c, hc⟩ := emit_setBusCfg e s cfg
    obtain ⟨hk, -⟩ := List.getElem?_eq_some_iff.mp he
    rcases Nat.lt_or_eq_of_le (Nat.succ_le_of_lt hk) with hk | hk
    · exact ⟨c, by rw [advance_mid he hk, advance_mid he hk, hc]⟩
    · refine ⟨c, ?_⟩
      rw [advance_last he hk, advance_last he hk, hc]
      exact finish_setBusCfg op { emit e s with seq := .idle } c

/-- A step from a state with any other `bus.cfg` takes the same case and ends in a state that differs in
`bus.cfg` alone. -/
theorem step_setBusCfg (s : State) (cfg : Option BusCfg) :
    ∃ t c, step s = .next t ∧ step { s with busCfg := cfg } = .next { t with busCfg := c } := by
  rcases step_cases s with ⟨op, k, hq, h⟩ | ⟨hq, hi, h⟩ | ⟨_, _, hq, hi, h⟩ | ⟨_, _, hq, hi, hr, h⟩ |
    ⟨_, _, hq, hi, hr, h⟩ | ⟨_, _, hq, hi, hr, h⟩
  · obtain ⟨c, hc⟩ := advance_setBusCfg Config.params op k s cfg
    exact ⟨_, c, h, by rw [step_run (s := { s with busCfg := cfg }) hq, hc]⟩
  · exact ⟨_, _, h, step_noInput (s := { s with busCfg := cfg }) hq hi⟩
  · exact ⟨_, _, h, step_env (s := { s with busCfg := cfg }) hq hi⟩
  · exact ⟨_, _, h, step_call_accepted (s := { s with busCfg := cfg }) hq hi hr⟩
  · exact ⟨_, _, h, step_start_accepted (s := { s with busCfg := cfg }) hq hi hr⟩
  · exact ⟨_, _, h, step_request_refused (s := { s with busCfg := cfg }) hq hi hr⟩

/-! ## The select lines and the trace -/

/-- An event drives the line as the reader of the trace says. -/
theorem emit_cs_get (d : Dev) (e : Event) (s : State) :
    (emit e s).cs.get d = lineStep d (s.cs.get d) e := by
  cases e with
  | csSet d' l => simp [lineStep, PerDev.get_set, eq_comm]
  | _ => rfl

theorem emit_oe_get (d : Dev) (e : Event) (s : State) :
    (emit e s).oe.get d = true ↔ s.oe.get d = true ∨ e = .pinOutput d := by
  cases e with
  | pinOutput d' =>
    by_cases h : d = d'
    · simp [h]
    · simp [PerDev.get_set, h, Ne.symm h]
  | _ => simp

theorem emitAll_cs_get (d : Dev) (es : List Event) (s : State) :
    (emitAll es s).cs.get d = es.foldl (lineStep d) (s.cs.get d) := by
  induction es generalizing s with
  | nil => rfl
  | cons e es ih => rw [emitAll_cons, ih, emit_cs_get, List.foldl_cons]

theorem emitAll_oe_get (d : Dev) (es : List Event) (s : State) :
    (emitAll es s).oe.get d = true ↔ s.oe.get d = true ∨ .pinOutput d ∈ es := by
  induction es generalizing s with
  | nil => simp
  | cons e es ih => rw [emitAll_cons, ih, emit_oe_get, List.mem_cons, or_assoc, eq_comm (a := e)]

end Sys2Proof.Machine

namespace Sys2Proof.Safety

open Sys2Proof.Machine

/-- Whatever runs from a state runs, with the same events, from one with any other `bus.cfg`. -/
theorem runSteps_setBusCfg {n : Nat} {s t : State} (cfg : Option BusCfg) (h : runSteps n s = .next t) :
    ∃ c, runSteps n { s with busCfg := cfg } = .next { t with busCfg := c } := by
  induction n generalizing s cfg with
  | zero =>
    rw [runSteps_zero] at h
    cases h
    exact ⟨cfg, rfl⟩
  | succ n ih =>
    obtain ⟨u, c, hu, hu'⟩ := step_setBusCfg s cfg
    rw [runSteps_succ n hu] at h
    rw [runSteps_succ n hu']
    exact ih c h

/-- A lawful state is a lawful idle one after some events, none of them when it is idle itself. -/
theorem Lawful.exists_emitAll {p : Params} {s : State} (h : Lawful p s) :
    ∃ s0 es, IdleLaws p s0 ∧ s = { emitAll es s0 with seq := s.seq } := by
  unfold Lawful at h
  split at h
  · exact ⟨s, [], h, rfl⟩
  · obtain ⟨-, s0, h0, -, hs⟩ := h
    exact ⟨s0, _, h0, by rw [hs]⟩

/-- Events keep the level of a line what the trace tells. -/
theorem lineAfter_emitAll {d : Dev} {s : State} (es : List Event) (h : lineAfter d s.trace = s.cs.get d) :
    lineAfter d (emitAll es s).trace = (emitAll es s).cs.get d := by
  rw [emitAll_trace, lineAfter_append, h, emitAll_cs_get]

/-- Events keep the output mode of a line what the trace tells. -/
theorem oe_iff_mem_trace_emitAll {d : Dev} {s : State} (es : List Event)
    (h : s.oe.get d = true ↔ Event.pinOutput d ∈ s.trace) :
    (emitAll es s).oe.get d = true ↔ Event.pinOutput d ∈ (emitAll es s).trace := by
  rw [emitAll_oe_get, h, emitAll_trace, List.mem_append]

end Sys2Proof.Safety

namespace Sys2Proof

open Machine Safety

/-- Settles O33: an operation overwrites the `bus.cfg` it finds (`exec_setBusCfg`), and a run is an induction over
`step_setBusCfg`. -/
theorem busConfigurationIsNeverRead : Obligations.BusConfigurationIsNeverRead := by
  unfold Obligations.BusConfigurationIsNeverRead
  refine ⟨fun i s cfg => ⟨fun t h => ?_, fun r h => ?_⟩, fun n s t cfg h => runSteps_setBusCfg cfg h⟩
  · rw [exec_setBusCfg, h]
  · rw [exec_setBusCfg, h]

/-- Settles O56: true at Idle by the laws, and kept by every event of an operation. -/
theorem selectStateIsToldByTheTrace : Obligations.SelectStateIsToldByTheTrace := by
  unfold Obligations.SelectStateIsToldByTheTrace
  intro s h d
  obtain ⟨s0, es, h0, hs⟩ := h.exists_emitAll
  rw [hs]
  exact ⟨lineAfter_emitAll es (h0.lineTold d), oe_iff_mem_trace_emitAll es (h0.outputTold d)⟩

/-- Settles O30: with both drivers Uninitialized and the sequencer idle, what is accepted is what asks for an
init. -/
theorem resetWaitsForAnInit : Obligations.ResetWaitsForAnInit := by
  unfold Obligations.ResetWaitsForAnInit
  refine ⟨rfl, rfl, rfl, rfl, rfl, rfl, rfl, rfl, step_noInput rfl rfl, fun i => ?_⟩
  rw [exec_next_iff_accepted, refusalOf_reset_eq_none, opOf_isInit]

end Sys2Proof
end

section
/-! SUPPORT. Frames as bits and bytes (spec 20_memory R46, R48, R50): the bits of a frame on the data line are
those of its number, and the bytes that a number is laid out in make that number again. -/

namespace Sys2Proof

theorem dacWord_toNat (c : Byte) (v : Half) : (dacWord c v).toNat = c.toNat * 65536 + v.toNat := by
  have happend : (dacWord c v).toNat = c.toNat <<< 16 ||| v.toNat := BitVec.toNat_append c v
  rw [happend, ← Nat.shiftLeft_add_eq_or_of_lt v.isLt, Nat.shiftLeft_eq]

@[simp] theorem natToBytes_length (n w : Nat) : (natToBytes n w).length = n := by
  induction n with
  | zero => rfl
  | succ n ih => rw [natToBytes, List.length_cons, ih]

end Sys2Proof

namespace Sys2Proof.Machine

/-! ## The bits of a frame -/

theorem frameBits_cons (o : BitOrder) (b : Byte) (bytes : List Byte) :
    frameBits o (b :: bytes) = serialBits o b ++ frameBits o bytes := rfl

@[simp] theorem serialBits_length (o : BitOrder) (b : Byte) : (serialBits o b).length = 8 := by
  cases o <;> rfl

theorem serialBits_lsbFirst (b : Byte) : serialBits .lsbFirst b = (serialBits .msbFirst b).reverse := rfl

theorem serialBits_msbFirst_getElem? (b : Byte) {i : Nat} (hi : i < 8) :
    (serialBits .msbFirst b)[i]? = some (b.toNat.testBit (7 - i)) := by
  interval_cases i <;> rfl

theorem frameBits_length (o : BitOrder) (bytes : List Byte) : (frameBits o bytes).length = 8 * bytes.length := by
  induction bytes with
  | nil => rfl
  | cons b bytes ih =>
    rw [frameBits_cons, List.length_append, serialBits_length, ih, List.length_cons]
    ring

/-- With the most significant bit first, the data line carries the bits of the frame's number from the top. -/
theorem frameBits_msbFirst_getElem? (bytes : List Byte) {i : Nat} (hi : i < 8 * bytes.length) :
    (frameBits .msbFirst bytes)[i]? = some ((frameNumber bytes).testBit (8 * bytes.length - 1 - i)) := by
  induction bytes generalizing i with
  | nil => simp at hi
  | cons b bytes ih =>
    rw [List.length_cons] at hi ⊢
    rw [frameBits_cons, frameNumber_cons, mul_comm b.toNat, Nat.testBit_two_pow_mul_add _ (frameNumber_lt bytes)]
    rcases Nat.lt_or_ge i 8 with h | h
    · have hlow : ¬ 8 * (bytes.length + 1) - 1 - i < 8 * bytes.length := by omega
      have hidx : 8 * (bytes.length + 1) - 1 - i - 8 * bytes.length = 7 - i := by omega
      rw [List.getElem?_append_left (by simpa using h), serialBits_msbFirst_getElem? b h, if_neg hlow, hidx]
    · have hlow : 8 * (bytes.length + 1) - 1 - i < 8 * bytes.length := by omega
      have hidx : 8 * (bytes.length + 1) - 1 - i = 8 * bytes.length - 1 - (i - 8) := by omega
      rw [List.getElem?_append_right (by simpa using h), serialBits_length, ih (by omega), if_pos hlow, hidx]

/-! ## The bytes of a number -/

theorem frameNumber_natToBytes (n w : Nat) : frameNumber (natToBytes n w) = w % 256 ^ n := by
  induction n with
  | zero => simp [natToBytes, frameNumber, Nat.mod_one]
  | succ n ih =>
    rw [pow_succ, Nat.mod_mul, natToBytes, frameNumber_cons, ih, natToBytes_length, pow_mul, BitVec.toNat_ofNat]
    ring

end Sys2Proof.Machine

namespace Sys2Proof

open Machine

/-! ## The byte decoder -/

theorem decodeBytes_wrongLength {fmt : Format} {bytes : List Byte} (h : bytes.length ≠ formatBytes fmt) :
    decodeBytes fmt bytes = .error (.wrongLength fmt bytes.length) := by
  simp only [decodeBytes, codeOfBytes, if_neg h]

theorem codeOfBytes_dac24 {bytes : List Byte} {f : BitVec 24} (hlen : bytes.length = 3)
    (h : frameNumber bytes = f.toNat) : codeOfBytes .dac24 bytes = .ok (.dac24 f) := by
  simp [codeOfBytes, formatBytes, hlen, h]

theorem codeOfBytes_sw8 {bytes : List Byte} {f : BitVec 8} (hlen : bytes.length = 1)
    (h : frameNumber bytes = f.toNat) : codeOfBytes .sw8 bytes = .ok (.sw8 f) := by
  simp [codeOfBytes, formatBytes, hlen, h]

theorem codeOfBytes_req26 {bytes : List Byte} {q : BitVec 26} (hlen : bytes.length = 4)
    (h : frameNumber bytes = q.toNat) : codeOfBytes .req26 bytes = .ok (.req26 q) := by
  have hq : q.toNat < 67108864 := q.isLt
  simp [codeOfBytes, formatBytes, hlen, h, hq]

theorem decodeBytes_of_codeOfBytes {fmt : Format} {bytes : List Byte} {w : Code}
    (h : codeOfBytes fmt bytes = .ok w) : decodeBytes fmt bytes = .ok (decode w) := by
  rw [decodeBytes, h]

/-- A row's bits decode to what the word decodes to that their bytes make. -/
theorem decodeTableWord_of_codeOfBytes {nbits w : Nat} {fmt : Format} {c : Code}
    (hfmt : formatOfWidth nbits = some fmt) (hw : w < 256 ^ formatBytes fmt)
    (hc : ∀ bytes, bytes.length = formatBytes fmt → frameNumber bytes = w → codeOfBytes fmt bytes = .ok c) :
    decodeTableWord nbits w = some (decode c) := by
  have hbytes := hc (natToBytes (formatBytes fmt) w) (natToBytes_length _ w)
    ((frameNumber_natToBytes _ w).trans (Nat.mod_eq_of_lt hw))
  simp only [decodeTableWord, tableCode, hfmt, if_pos hw, hbytes]

/-- Settles O9: the bits of a frame are those of its number (`frameBits_msbFirst_getElem?`), and the number of a
DAC frame is its word. -/
theorem serialBitsFollowTheBitOrder : Obligations.SerialBitsFollowTheBitOrder := by
  unfold Obligations.SerialBitsFollowTheBitOrder
  refine ⟨fun c v i hi => ?_, serialBits_lsbFirst, frameBits_length⟩
  have hnumber : frameNumber (encDac c v) = (dacWord c v).toNat := by rw [frameNumber_encDac, dacWord_toNat]
  rw [frameBits_msbFirst_getElem? (encDac c v) hi, hnumber]
  rfl

/-- Settles O15: frames by their numbers, a row's bits by the bytes they are laid out in. -/
theorem byteDecoderAgreesWithWords : Obligations.ByteDecoderAgreesWithWords := by
  unfold Obligations.ByteDecoderAgreesWithWords
  refine ⟨fun _ _ h => decodeBytes_wrongLength h, fun c v => ?_, fun m => ?_, fun q => ?_, fun f => ?_, fun f => ?_⟩
  · exact decodeBytes_of_codeOfBytes (codeOfBytes_dac24 rfl (by rw [frameNumber_encDac, dacWord_toNat]))
  · exact decodeBytes_of_codeOfBytes (codeOfBytes_sw8 rfl (frameNumber_encSw m))
  · exact decodeTableWord_of_codeOfBytes (fmt := .req26) rfl (q.isLt.trans (by decide)) fun _ => codeOfBytes_req26
  · exact decodeTableWord_of_codeOfBytes (fmt := .dac24) rfl f.isLt fun _ => codeOfBytes_dac24
  · exact decodeTableWord_of_codeOfBytes (fmt := .sw8) rfl f.isLt fun _ => codeOfBytes_sw8

end Sys2Proof
end

section
/-! SUPPORT. The events of an operation and what they bring to the bus (spec 20_memory R40 to R46, R51, R52, R58):
which events there are, what the readers of the trace make of them, and that an accepted request is one frame. -/

namespace Sys2Proof.Machine

/-! ## The events of an operation -/

/-- The events that may stand around the frame of an operation: `PinOutput` in an init only, no transfer, and every
line and configuration the operation's own. -/
inductive FramingEvent (p : Params) (op : Op) : Event → Prop where
  | pinOutput (h : op.isInit = true) : FramingEvent p op (.pinOutput op.dev)
  | csSet (l : Level) : FramingEvent p op (.csSet op.dev l)
  | busBegin : FramingEvent p op (.busBegin (p.cfg op.dev))
  | busEnd : FramingEvent p op .busEnd
  | wait : FramingEvent p op .wait

theorem framingEvent_slot {p : Params} {op : Op} {filled : Bool} : ∀ e ∈ slot filled, FramingEvent p op e := by
  intro e he
  cases filled with
  | false => simp [slot] at he
  | true =>
    rw [List.mem_singleton.mp he]
    exact .wait

theorem framingEvent_beforeFrame (p : Params) (op : Op) : ∀ e ∈ beforeFrame p op, FramingEvent p op e := by
  cases op with
  | dacInit =>
    simp only [beforeFrame, List.forall_mem_append, List.forall_mem_cons]
    exact ⟨⟨⟨⟨.pinOutput rfl, .csSet _, .busBegin, nofun⟩, framingEvent_slot⟩, .csSet _, nofun⟩,
      framingEvent_slot⟩
  | dacWrite c v =>
    simp only [beforeFrame, List.forall_mem_cons]
    exact ⟨.csSet _, .busBegin, nofun⟩
  | swInit =>
    simp only [beforeFrame, List.forall_mem_append, List.forall_mem_cons]
    exact ⟨⟨⟨⟨.pinOutput rfl, .csSet _, .busBegin, nofun⟩, framingEvent_slot⟩, .csSet _, nofun⟩,
      framingEvent_slot⟩
  | swWrite m =>
    simp only [beforeFrame, List.forall_mem_cons]
    exact ⟨.busBegin, .csSet _, .wait, nofun⟩

theorem framingEvent_afterFrame (p : Params) (op : Op) : ∀ e ∈ afterFrame p op, FramingEvent p op e := by
  cases op with
  | dacInit =>
    simp only [afterFrame, List.forall_mem_append, List.forall_mem_cons]
    exact ⟨⟨⟨framingEvent_slot, .csSet _, nofun⟩, framingEvent_slot⟩, .busEnd, nofun⟩
  | dacWrite c v =>
    simp only [afterFrame, List.forall_mem_cons]
    exact ⟨.wait, .csSet _, .busEnd, nofun⟩
  | swInit =>
    simp only [afterFrame, List.forall_mem_append, List.forall_mem_cons]
    exact ⟨⟨⟨framingEvent_slot, .csSet _, nofun⟩, framingEvent_slot⟩, .busEnd, nofun⟩
  | swWrite m =>
    simp only [afterFrame, List.forall_mem_cons]
    exact ⟨.wait, .csSet _, .busEnd, nofun⟩

/-- Every event of an operation is a transfer or one of those around its frame. -/
theorem mem_steps_cases {p : Params} {op : Op} {e : Event} (h : e ∈ steps p op) :
    FramingEvent p op e ∨ ∃ b, e = .transfer b := by
  rw [steps_eq_around_frame, List.mem_append, List.mem_append] at h
  rcases h with (h | h) | h
  · exact .inl (framingEvent_beforeFrame p op e h)
  · obtain ⟨b, -, rfl⟩ := List.mem_map.mp h
    exact .inr ⟨b, rfl⟩
  · exact .inl (framingEvent_afterFrame p op e h)

/-- No event of an operation names the other line. -/
theorem names_other_of_mem_steps {p : Params} {op : Op} {e : Event} {d : Dev} (h : e ∈ steps p op)
    (hd : d ≠ op.dev) : e.names d = false := by
  rcases mem_steps_cases h with h | ⟨b, rfl⟩
  · cases h <;> simp [Event.names, hd.symm]
  · rfl

/-! ## The bytes of an operation -/

theorem bytesOf_append (xs ys : List Event) : bytesOf (xs ++ ys) = bytesOf xs ++ bytesOf ys :=
  List.filterMap_append

@[simp] theorem bytesOf_transfers (frame : List Byte) : bytesOf (transfers frame) = frame := by
  induction frame with
  | nil => rfl
  | cons b frame ih => exact congrArg (b :: ·) ih

theorem bytesOf_framing {p : Params} {op : Op} {es : List Event} (h : ∀ e ∈ es, FramingEvent p op e) :
    bytesOf es = [] := by
  refine List.filterMap_eq_nil_iff.mpr fun e he => ?_
  cases h e he <;> rfl

@[simp] theorem bytesOf_steps (p : Params) (op : Op) : bytesOf (steps p op) = frameOf op := by
  rw [steps_eq_around_frame, bytesOf_append, bytesOf_append, bytesOf_framing (framingEvent_beforeFrame p op),
    bytesOf_framing (framingEvent_afterFrame p op), bytesOf_transfers, List.nil_append, List.append_nil]

theorem frameOf_length_dac {op : Op} (h : op.dev = .dac) : (frameOf op).length = 3 := by
  cases op with
  | dacInit => rfl
  | dacWrite c v => rfl
  | swInit => cases h
  | swWrite m => cases h

theorem frameOf_length_sw {op : Op} (h : op.dev = .sw) : (frameOf op).length = 1 := by
  cases op with
  | dacInit => cases h
  | dacWrite c v => cases h
  | swInit => rfl
  | swWrite m => rfl

theorem hiByte_eq_extractLsb' (v : Half) : hiByte v = v.extractLsb' 8 8 := by
  apply BitVec.eq_of_toNat_eq
  have := v.isLt
  rw [hiByte_toNat, BitVec.extractLsb'_toNat, Nat.shiftRight_eq_div_pow]
  omega

theorem loByte_eq_extractLsb' (v : Half) : loByte v = v.extractLsb' 0 8 := by
  apply BitVec.eq_of_toNat_eq
  rw [loByte_toNat, BitVec.extractLsb'_toNat, Nat.shiftRight_zero]

/-! ## What a device receives -/

/-- While no frame of a device is open, events that do not name its line bring it nothing. -/
theorem foldl_scanEvent_unnamed {d : Dev} {es : List Event} {acc : List (List Byte) × Option (List Byte)}
    (hes : ∀ e ∈ es, e.names d = false) (h : acc.2 = none) : es.foldl (scanEvent d) acc = acc := by
  obtain ⟨fs, cur⟩ := acc
  obtain rfl : cur = none := h
  induction es with
  | nil => rfl
  | cons e es ih =>
    have he : scanEvent d (fs, none) e = (fs, none) := by
      have hname := hes e List.mem_cons_self
      cases e with
      | csSet d' l => cases l <;> simp_all [scanEvent, Event.names]
      | _ => rfl
    rw [List.foldl_cons, he]
    exact ih fun e he => hes e (List.mem_cons_of_mem _ he)

/-- Events that do not name a line do not drive it. -/
theorem emitAll_cs_get_unnamed {d : Dev} {es : List Event} (hes : ∀ e ∈ es, e.names d = false) (s : State) :
    (emitAll es s).cs.get d = s.cs.get d := by
  rw [emitAll_cs_get]
  induction es with
  | nil => rfl
  | cons e es ih =>
    have he : lineStep d (s.cs.get d) e = s.cs.get d := by
      have hname := hes e List.mem_cons_self
      cases e <;> simp_all [lineStep, Event.names]
    rw [List.foldl_cons, he]
    exact ih fun e he => hes e (List.mem_cons_of_mem _ he)

/-- The transfers of a frame are added to the open frame, when there is one. -/
theorem foldl_scanEvent_transfers (d : Dev) (bytes : List Byte) (acc : List (List Byte) × Option (List Byte)) :
    (transfers bytes).foldl (scanEvent d) acc = (acc.1, acc.2.map (· ++ bytes)) := by
  induction bytes generalizing acc with
  | nil => simp [transfers]
  | cons b bytes ih =>
    have h : (transfers (b :: bytes)).foldl (scanEvent d) acc =
        (transfers bytes).foldl (scanEvent d) (acc.1, acc.2.map (· ++ [b])) := rfl
    rw [h, ih, Option.map_map]
    simp [Function.comp_def]

/-- The events around a frame open and close the reader's frame, and put no byte into it. -/
theorem foldl_scanEvent_framing {p : Params} {op : Op} {d : Dev} {es : List Event} {P : List Byte → Prop}
    {acc : List (List Byte) × Option (List Byte)} (hes : ∀ e ∈ es, FramingEvent p op e) (hnil : P [])
    (h : ∀ bytes, acc.2 = some bytes → P bytes) :
    ∀ bytes, (es.foldl (scanEvent d) acc).2 = some bytes → P bytes := by
  induction es generalizing acc with
  | nil => exact h
  | cons e es ih =>
    rw [List.foldl_cons]
    refine ih (fun e he => hes e (List.mem_cons_of_mem _ he)) ?_
    obtain ⟨fs, cur⟩ := acc
    cases hes e List.mem_cons_self with
    | csSet l => cases l <;> cases cur <;> by_cases hd : op.dev = d <;> simp_all [scanEvent]
    | _ => exact h

theorem take_transfers (k : Nat) (frame : List Byte) : (transfers frame).take k = transfers (frame.take k) :=
  (List.map_take ..).symm

/-- Wherever an operation stands, the bytes since the falling edge of its line are the first of its frame: none
before the transfers, then as many as are sent, and the events after the frame add none. -/
theorem openFrame_take_steps {p : Params} {op : Op} {t : List Event} {bytes : List Byte} (k : Nat)
    (h : openFrame op.dev t = none) (hopen : openFrame op.dev (t ++ (steps p op).take k) = some bytes) :
    bytes <+: frameOf op := by
  have hbefore : ∀ sent, (((beforeFrame p op).take k).foldl (scanEvent op.dev) (scanTrace op.dev t)).2 = some sent →
      sent = [] := by
    refine foldl_scanEvent_framing (fun e he => framingEvent_beforeFrame p op e (List.mem_of_mem_take he)) rfl ?_
    intro sent hsent
    cases h.symm.trans hsent
  rw [openFrame, scanTrace_append, steps_eq_around_frame, List.take_append, List.take_append, List.foldl_append,
    List.foldl_append, take_transfers, foldl_scanEvent_transfers] at hopen
  refine foldl_scanEvent_framing (P := (· <+: frameOf op))
    (fun e he => framingEvent_afterFrame p op e (List.mem_of_mem_take he)) List.nil_prefix ?_ bytes hopen
  intro sent hsent
  obtain ⟨early, hearly, rfl⟩ := Option.map_eq_some_iff.mp hsent
  rw [hbefore early hearly, List.nil_append]
  exact List.take_prefix _ _

/-- What a whole operation adds to what each device receives: its frame to its own, nothing to the other. -/
theorem scanTrace_steps (p : Params) (op : Op) (d : Dev) {t : List Event} (h : openFrame d t = none) :
    scanTrace d (t ++ steps p op) = (frames d t ++ (if d = op.dev then [frameOf op] else []), none) := by
  by_cases hd : d = op.dev
  · subst hd
    rw [scanTrace_steps_self p op t h, if_pos rfl]
    rfl
  · rw [scanTrace_steps_other p op d t (Ne.symm hd) h, if_neg hd, List.append_nil]
    exact Prod.ext rfl h

theorem frames_steps (p : Params) (op : Op) {d : Dev} {t : List Event} (h : openFrame d t = none) :
    frames d (t ++ steps p op) = frames d t ++ (if d = op.dev then [frameOf op] else []) :=
  congrArg Prod.fst (scanTrace_steps p op d h)

theorem openFrame_steps (p : Params) (op : Op) {d : Dev} {t : List Event} (h : openFrame d t = none) :
    openFrame d (t ++ steps p op) = none :=
  congrArg Prod.snd (scanTrace_steps p op d h)

/-- What was accepted is accepted again. -/
theorem refusalOf_completed (p : Params) {op : Op} {s : State} (h : refusalOf op s = none) :
    refusalOf op (completed p op s) = none := by
  rw [refusalOf_eq_none] at h ⊢
  obtain ⟨hq, hready⟩ := h
  refine ⟨hq, ?_⟩
  cases hi : op.isInit with
  | true => exact .inl rfl
  | false => simpa [completed, hi] using hready

/-! ## The calls of an operation -/

/-- The calls an operation may make (spec 20_memory R40 to R43): on its own line, with its own configuration, never
the stand-alone configure, and blocking for `T_SETTLE` only. -/
def OwnCall (p : Params) (op : Op) : Call → Prop
  | .configure _ => False
  | .beginTransaction cfg => cfg = p.cfg op.dev
  | .endTransaction => True
  | .transferByte _ => True
  | .selectLineSet id _ => id = p.csOf op.dev
  | .setOutput id => id = p.csOf op.dev ∧ op.isInit = true
  | .driveLine id _ => id = p.csOf op.dev
  | .blockMicros n => n = p.settle

theorem ownCall_of_mem_steps {p : Params} {op : Op} {e : Event} {x : Call} (he : e ∈ steps p op)
    (hx : x ∈ e.calls p) : OwnCall p op x := by
  rcases mem_steps_cases he with he | ⟨b, rfl⟩
  · cases he with
    | pinOutput hinit =>
      obtain rfl := List.mem_singleton.mp hx
      exact ⟨rfl, hinit⟩
    | csSet l =>
      rcases List.mem_pair.mp hx with rfl | rfl <;> rfl
    | busBegin =>
      obtain rfl := List.mem_singleton.mp hx
      rfl
    | busEnd =>
      obtain rfl := List.mem_singleton.mp hx
      trivial
    | wait =>
      obtain rfl := List.mem_singleton.mp hx
      rfl
  · obtain rfl := List.mem_singleton.mp hx
    trivial

end Sys2Proof.Machine

namespace Sys2Proof.Safety

open Sys2Proof.Machine

/-- Between two operations no line is Low. -/
theorem IdleLaws.cs_ne_low {p : Params} {s : State} (h : IdleLaws p s) (d : Dev) : s.cs.get d ≠ some .low := by
  cases hst : s.st.get d with
  | ready =>
    obtain ⟨-, hcs, -⟩ := h.ready d hst
    simp [hcs]
  | uninitialized =>
    obtain ⟨-, hcs, -⟩ := h.uninitialized d hst
    simp [hcs]

end Sys2Proof.Safety

namespace Sys2Proof

open Machine Safety

/-- Settles O34: what an accepted request appends is the event list of its operation, whatever the state. -/
theorem framesAreFresh : Obligations.FramesAreFresh := by
  unfold Obligations.FramesAreFresh
  intro i s s' t t' h h'
  obtain ⟨-, rfl⟩ := exec_next h
  obtain ⟨-, rfl⟩ := exec_next h'
  exact ⟨steps Config.params (opOf i), rfl, rfl, bytesOf_steps _ _⟩

/-- Settles O40: the bytes of an operation are its frame (`bytesOf_steps`), since no event around it is a
transfer. -/
theorem bytesOnTheBus : Obligations.BytesOnTheBus := by
  unfold Obligations.BytesOnTheBus
  refine fun p => ⟨fun c v => ?_, bytesOf_steps p, fun op h => ?_, fun op h => ?_⟩
  · rw [← hiByte_eq_extractLsb', ← loByte_eq_extractLsb']
    exact bytesOf_steps p (.dacWrite c v)
  · rw [bytesOf_steps, frameOf_length_dac h]
  · rw [bytesOf_steps, frameOf_length_sw h]

/-- Settles O41: an operation adds one frame (`frames_steps`) and leaves a state that accepts it again. -/
theorem oneRequestOneFrame : Obligations.OneRequestOneFrame := by
  unfold Obligations.OneRequestOneFrame
  intro i s t hnone h
  obtain ⟨haccepted, rfl⟩ := exec_next h
  have hclosed : ∀ d, openFrame d (s.trace ++ steps Config.params (opOf i)) = none :=
    fun d => openFrame_steps _ _ (hnone d)
  have hagain : exec i (completed Config.params (opOf i) s) =
      .next (completed Config.params (opOf i) (completed Config.params (opOf i) s)) := by
    rw [exec_eq_request, request_of_accepted (refusalOf_completed _ haccepted)]
  refine ⟨fun d => frames_steps _ _ (hnone d), hclosed, _, hagain, ?_⟩
  exact (frames_steps _ _ (hclosed _)).trans (by simp [frames_steps _ _ (hnone _)])

/-- Settles O42: the events of an operation leave the other line and its reader as they are, and the reader of its
own line is `openFrame_take_steps`. -/
theorem framesAreAtomic : Obligations.FramesAreAtomic := by
  unfold Obligations.FramesAreAtomic
  intro op s hs _
  have hunnamed : ∀ k d, d ≠ op.dev → ∀ e ∈ (steps Config.params op).take k, e.names d = false :=
    fun k d hd e he => names_other_of_mem_steps (List.mem_of_mem_take he) hd
  simp only [emitAll_trace]
  refine ⟨fun k => ⟨fun d hd => ?_, fun bytes hopen => ?_, fun d hd => ?_⟩, fun d => ?_, fun d => ?_⟩
  · rw [emitAll_cs_get_unnamed (hunnamed k d hd)]
    exact hs.cs_ne_low d
  · exact openFrame_take_steps k (hs.noOpenFrame op.dev) hopen
  · rw [openFrame, scanTrace_append, foldl_scanEvent_unnamed (hunnamed k d hd) (hs.noOpenFrame d)]
    exact hs.noOpenFrame d
  · exact frames_steps _ _ (hs.noOpenFrame d)
  · exact openFrame_steps _ _ (hs.noOpenFrame d)

/-- Settles O45: the six equations are the definition, and every call of an operation is its own
(`ownCall_of_mem_steps`). -/
theorem callsOnTheInterfaces : Obligations.CallsOnTheInterfaces := by
  unfold Obligations.CallsOnTheInterfaces
  refine ⟨fun _ _ => rfl, fun _ _ _ => rfl, fun _ _ => rfl, fun _ => rfl, fun _ _ => rfl, fun _ => rfl,
    fun p op e x he hx => ?_⟩
  have hown : OwnCall p op x := ownCall_of_mem_steps he hx
  refine ⟨?_, ?_, ?_, ?_, ?_⟩
  · rintro cfg rfl
    exact hown
  · rintro cfg rfl
    exact hown
  · rintro id l (rfl | rfl)
    · exact hown
    · exact hown
  · rintro id rfl
    exact hown
  · rintro n rfl
    exact hown

end Sys2Proof
end

section
/-! SUPPORT. A list of requests served one after the other (spec 20_memory R55, R59; 10_state R37): how each input
moves the list of the accepted requests, the trace and the refused mark. -/

namespace Sys2Proof.Safety

open Sys2Proof.Machine

/-! ## The accepted requests of a list -/

theorem acceptedOps_cons_accepted {p : Params} {op : Op} {ops : List Op} {s : State} (h : refusalOf op s = none) :
    acceptedOps s.st (op :: ops) = op :: acceptedOps (completed p op s).st ops := by
  obtain ⟨-, h⟩ := (refusalOf_eq_none op s).mp h
  cases hinit : op.isInit with
  | true => simp [acceptedOps, completed, hinit]
  | false => simp_all [acceptedOps, completed]

theorem acceptedOps_cons_refused {op : Op} {ops : List Op} {s : State} (hq : s.seq = .idle)
    (h : refusalOf op s ≠ none) : acceptedOps s.st (op :: ops) = acceptedOps s.st ops := by
  rw [Ne, refusalOf_eq_none, not_and, not_or] at h
  obtain ⟨hinit, hready⟩ := h hq
  rw [acceptedOps, if_neg hinit, if_neg hready]

theorem acceptedOps_length_le (st : PerDev DriverState) (ops : List Op) :
    (acceptedOps st ops).length ≤ ops.length := by
  induction ops generalizing st with
  | nil => exact le_rfl
  | cons op ops ih =>
    rw [acceptedOps]
    split
    · exact Nat.succ_le_succ (ih _)
    · split
      · exact Nat.succ_le_succ (ih _)
      · exact (ih _).trans (Nat.le_succ _)

/-! ## What a device receives of them -/

theorem frames_flatMap_steps (p : Params) {d : Dev} {t : List Event} (ops : List Op) (h : openFrame d t = none) :
    frames d (t ++ ops.flatMap (steps p)) = frames d t ++ (ops.filter fun op => op.dev = d).map frameOf := by
  induction ops generalizing t with
  | nil => simp
  | cons op ops ih =>
    rw [List.flatMap_cons, ← List.append_assoc, ih (openFrame_steps p op h), frames_steps p op h]
    by_cases hd : op.dev = d
    · simp [hd]
    · simp [hd, Ne.symm hd]

/-! ## The run -/

/-- What a run over all its inputs, begun in `s` and ended in `t`, has served (spec 20_memory R55). -/
structure Served (p : Params) (ins : List Input) (s t : State) : Prop where
  seq : t.seq = .idle
  inputs : t.inputs = []
  trace : t.trace = s.trace ++ (acceptedOps s.st (opsOf ins)).flatMap (steps p)
  refusedSeen : t.refusedSeen = true ↔
    s.refusedSeen = true ∨ (acceptedOps s.st (opsOf ins)).length ≠ (opsOf ins).length

/-- As many steps as there are inputs serve them all. -/
theorem runSteps_served {ins : List Input} {s : State} (hstart : ∀ w, Input.start w ∉ ins) (hq : s.seq = .idle)
    (hi : s.inputs = ins) : ∃ t, runSteps ins.length s = .next t ∧ Served Config.params ins s t := by
  induction ins generalizing s with
  | nil => exact ⟨s, rfl, hq, hi, by simp [opsOf, acceptedOps], by simp [opsOf, acceptedOps]⟩
  | cons input rest ih =>
    have hrest : ∀ w, Input.start w ∉ rest := fun w hw => hstart w (List.mem_cons_of_mem _ hw)
    rw [List.length_cons]
    cases input with
    | start w => exact absurd List.mem_cons_self (hstart w)
    | env cfg =>
      rw [runSteps_succ _ (step_env hq hi)]
      obtain ⟨t, hrun, hseq, hin, htrace, hmark⟩ :=
        ih hrest (s := { s with busCfg := some cfg, inputs := rest }) hq rfl
      exact ⟨t, hrun, hseq, hin, htrace, hmark⟩
    | call w =>
      by_cases hr : refusalOf (opOf (decode w)) s = none
      · rw [runSteps_succ _ (step_call_accepted hq hi hr)]
        set after := completed Config.params (opOf (decode w)) { s with inputs := rest }
        obtain ⟨t, hrun, hseq, hin, htrace, hmark⟩ := ih hrest (s := after) hq rfl
        have hops : acceptedOps s.st (opsOf (.call w :: rest)) =
            opOf (decode w) :: acceptedOps after.st (opsOf rest) :=
          acceptedOps_cons_accepted (s := { s with inputs := rest }) hr
        refine ⟨t, hrun, hseq, hin, ?_, ?_⟩
        · rw [hops, List.flatMap_cons, ← List.append_assoc]
          exact htrace
        · rw [hops, hmark, opsOf, List.length_cons, List.length_cons, Ne, Ne, Nat.succ_inj]
          rfl
      · rw [runSteps_succ _ (step_request_refused hq (.inl hi) hr)]
        obtain ⟨t, hrun, hseq, hin, htrace, hmark⟩ :=
          ih hrest (s := { s with inputs := rest, refusedSeen := true }) hq rfl
        have hops : acceptedOps s.st (opsOf (.call w :: rest)) = acceptedOps s.st (opsOf rest) :=
          acceptedOps_cons_refused hq hr
        refine ⟨t, hrun, hseq, hin, hops ▸ htrace, ?_⟩
        have hshort := acceptedOps_length_le s.st (opsOf rest)
        rw [hops, opsOf, List.length_cons, hmark]
        exact iff_of_true (.inl rfl) (.inr (by omega))

end Sys2Proof.Safety

namespace Sys2Proof

open Machine Safety

/-- Settles O51: the inputs one by one (`runSteps_served`); what each device receives follows from the trace
(`frames_flatMap_steps`). -/
theorem runIsTheConcatenationOfItsRequests : Obligations.RunIsTheConcatenationOfItsRequests := by
  unfold Obligations.RunIsTheConcatenationOfItsRequests
  intro ins s hstart hq hi
  obtain ⟨t, hrun, hseq, hin, htrace, hmark⟩ := runSteps_served hstart hq hi
  refine ⟨t, hrun, hseq, hin, htrace, fun hnone d => ?_, hmark⟩
  rw [htrace, frames_flatMap_steps _ _ (hnone d)]

/-- Settles O47: the environment's case of a step. -/
theorem environmentMovesTheBusOnly : Obligations.EnvironmentMovesTheBusOnly :=
  fun _ _ _ hq hi => step_env hq hi

end Sys2Proof
end

section
/-! SUPPORT. The words and the instructions (spec 30_encoding R61, R64, R72, R73, R77, R78; log entry 17): what the
decoder answers on a word written by its fields, that it inverts the encoder on well-formed instructions and is
inverted by it but for ignored bits, and which instructions are not well-formed: the second readings. -/

namespace Sys2Proof

open Machine

/-! ## A word and its fields -/

theorem exists_eq_reqWord (q : BitVec 26) : ∃ op c v, q = reqWord op c v := ⟨_, _, _, (reqWord_fields q).symm⟩

theorem exists_eq_dacWord (f : BitVec 24) : ∃ c v, f = dacWord c v := ⟨_, _, (dacWord_fields f).symm⟩

@[simp] theorem reqWord_eq_iff {op op' : BitVec 2} {c c' : Byte} {v v' : Half} :
    reqWord op c v = reqWord op' c' v' ↔ op = op' ∧ c = c' ∧ v = v' := by
  refine ⟨fun h => ⟨?_, ?_, ?_⟩, ?_⟩
  · rw [← reqWord_op op c v, h, reqWord_op]
  · rw [← reqWord_cmd op c v, h, reqWord_cmd]
  · rw [← reqWord_value op c v, h, reqWord_value]
  · rintro ⟨rfl, rfl, rfl⟩
    rfl

@[simp] theorem dacWord_eq_iff {c c' : Byte} {v v' : Half} : dacWord c v = dacWord c' v' ↔ c = c' ∧ v = v' :=
  ⟨dacWord_inj, fun ⟨hc, hv⟩ => by rw [hc, hv]⟩

/-- The frame that `DAC.INIT` sends, as the word of its row. -/
theorem dacWord_eq_initFrame_iff {c : Byte} {v : Half} :
    dacWord c v = 0x140001#24 ↔ c = dacInitCmd ∧ v = 0x0001#16 :=
  dacWord_eq_iff (c' := dacInitCmd) (v' := 0x0001#16)

/-- `Q[25:24]` selects one of the four operations. -/
theorem opField_cases (op : BitVec 2) : op = 0#2 ∨ op = 1#2 ∨ op = 2#2 ∨ op = 3#2 := by decide +revert

/-! ## The named command codes -/

@[simp] theorem cmdCode_eq_iff {k l : Command} : cmdCode k = cmdCode l ↔ k = l := by
  cases k <;> cases l <;> decide

theorem cmdCode_ne_dacInitCmd (k : Command) : cmdCode k ≠ dacInitCmd := by cases k <;> decide

theorem isNamedCode_iff {c : Byte} : isNamedCode c = true ↔ ∃ k, c = cmdCode k := by
  simp only [isNamedCode, Bool.or_eq_true, beq_iff_eq]
  constructor
  · rintro (((h | h) | h) | h) <;> exact ⟨_, h⟩
  · rintro ⟨k, rfl⟩
    cases k <;> simp

theorem ne_cmdCode_of_unnamed {c : Byte} (h : isNamedCode c = false) (k : Command) : c ≠ cmdCode k := by
  intro hk
  exact Bool.false_ne_true (h.symm.trans (isNamedCode_iff.mpr ⟨k, hk⟩))

/-- The readings of a command byte: one of the four codes, or unlisted. -/
theorem commandByte_cases (c : Byte) : (∃ k, c = cmdCode k) ∨ isNamedCode c = false := by
  rw [← isNamedCode_iff]
  cases isNamedCode c <;> simp

/-- The row of level `request` that a named command code has of its own. -/
def namedRequest : Command → Half → Instr
  | .chn1 => .dacWriteChn1
  | .chn2 => .dacWriteChn2
  | .chnAll => .dacWriteChnAll
  | .reset => .dacWriteReset

/-- The row of level `wire` that a named command code has of its own. -/
def namedFrame : Command → Half → Instr
  | .chn1 => .frameDacWriteChn1
  | .chn2 => .frameDacWriteChn2
  | .chnAll => .frameDacWriteChnAll
  | .reset => .frameDacWriteReset

@[simp] theorem requestDacWrite_named (k : Command) (v : Half) :
    requestDacWrite (cmdCode k) v = namedRequest k v := by
  cases k <;> rfl

@[simp] theorem wireDacWrite_named (k : Command) (v : Half) : wireDacWrite (cmdCode k) v = namedFrame k v := by
  cases k <;> rfl

theorem requestDacWrite_unnamed {c : Byte} (h : isNamedCode c = false) (v : Half) :
    requestDacWrite c v = .dacWrite c v := by
  simp [requestDacWrite, ne_cmdCode_of_unnamed h]

theorem wireDacWrite_unnamed {c : Byte} (h : isNamedCode c = false) (v : Half) :
    wireDacWrite c v = .frameDacWrite c v := by
  simp [wireDacWrite, ne_cmdCode_of_unnamed h]

/-! ## Decoding a word written by its fields -/

@[simp] theorem decode_dacInitWord (c : Byte) (v : Half) : decode (.req26 (reqWord 0#2 c v)) = .dacInit := by
  simp [decode, decodeRequest]

@[simp] theorem decode_dacWriteWord (c : Byte) (v : Half) :
    decode (.req26 (reqWord 1#2 c v)) = requestDacWrite c v := by
  simp [decode, decodeRequest]

@[simp] theorem decode_swInitWord (c : Byte) (v : Half) : decode (.req26 (reqWord 2#2 c v)) = .swInit := by
  simp [decode, decodeRequest]

theorem reqWord_low (op : BitVec 2) (c : Byte) (v : Half) :
    (reqWord op c v).extractLsb' 0 8 = v.extractLsb' 0 8 := by
  apply BitVec.eq_of_getLsbD_eq
  intro i hi
  rw [BitVec.getLsbD_extractLsb', BitVec.getLsbD_extractLsb', reqWord_getLsbD, if_pos (by omega)]

@[simp] theorem decode_swWriteWord (c : Byte) (v : Half) :
    decode (.req26 (reqWord 3#2 c v)) = .swWrite (v.extractLsb' 0 8) := by
  simp [decode, decodeRequest, reqWord_low]

@[simp] theorem decode_initFrame : decode (.dac24 0x140001#24) = .frameDacInit := rfl

theorem decode_dacWord {c : Byte} {v : Half} (h : ¬(c = dacInitCmd ∧ v = 0x0001#16)) :
    decode (.dac24 (dacWord c v)) = wireDacWrite c v := by
  simp only [decode, decodeDacFrame, dacWord_eq_initFrame_iff, if_neg h, dacWord_cmd, dacWord_value]

@[simp] theorem decode_namedFrame (k : Command) (v : Half) :
    decode (.dac24 (dacWord (cmdCode k) v)) = namedFrame k v := by
  rw [decode_dacWord fun h => cmdCode_ne_dacInitCmd k h.1, wireDacWrite_named]

@[simp] theorem decode_sw8_zero : decode (.sw8 0x00#8) = .frameSwInit := rfl

theorem decode_sw8 {m : Byte} (h : m ≠ 0x00#8) : decode (.sw8 m) = .frameSwWrite m := if_neg h

/-! ## Encoding what is decoded -/

@[simp] theorem encode_requestDacWrite (c : Byte) (v : Half) :
    encode (requestDacWrite c v) = .req26 (reqWord 1#2 c v) := by
  rcases commandByte_cases c with ⟨k, rfl⟩ | h
  · rw [requestDacWrite_named]
    cases k <;> rfl
  · rw [requestDacWrite_unnamed h]
    rfl

@[simp] theorem encode_wireDacWrite (c : Byte) (v : Half) : encode (wireDacWrite c v) = .dac24 (dacWord c v) := by
  rcases commandByte_cases c with ⟨k, rfl⟩ | h
  · rw [wireDacWrite_named]
    cases k <;> rfl
  · rw [wireDacWrite_unnamed h]
    rfl

/-! ## Ignored bits -/

theorem reqWord_and_opMask (op : BitVec 2) (c : Byte) (v : Half) :
    reqWord op c v &&& 0x3000000#26 = reqWord op 0#8 0#16 :=
  BitVec.eq_of_toNat_eq (Laws.TableRow.op_masked op c v)

theorem reqWord_and_cmdMask (op : BitVec 2) (c : Byte) (v : Half) :
    reqWord op c v &&& 0x3FF0000#26 = reqWord op c 0#16 :=
  BitVec.eq_of_toNat_eq (Laws.TableRow.req_masked op c v)

theorem dacWord_and_cmdMask (c : Byte) (v : Half) : dacWord c v &&& 0xFF0000#24 = dacWord c 0#16 :=
  BitVec.eq_of_toNat_eq (Laws.TableRow.frame_masked c v)

/-- What `SW.WRITE` keeps of its word: the operation and the mask. -/
theorem reqWord_and_swMask (c : Byte) (v : Half) :
    reqWord 3#2 c v &&& 0x30000FF#26 = reqWord 3#2 0#8 ((v.extractLsb' 0 8).setWidth 16) := by
  apply BitVec.eq_of_getLsbD_eq
  intro i hi
  rw [BitVec.getLsbD_and, reqWord_getLsbD, reqWord_getLsbD]
  interval_cases i <;> simp

theorem clearIgnored_dacInitWord (c : Byte) (v : Half) :
    clearIgnored (reqWord 0#2 c v) = reqWord 0#2 0#8 0#16 := by
  simp [clearIgnored, reqWord_and_opMask]

theorem clearIgnored_dacWriteWord (c : Byte) (v : Half) : clearIgnored (reqWord 1#2 c v) = reqWord 1#2 c v := by
  simp [clearIgnored]

theorem clearIgnored_swInitWord (c : Byte) (v : Half) :
    clearIgnored (reqWord 2#2 c v) = reqWord 2#2 0#8 0#16 := by
  simp [clearIgnored, reqWord_and_opMask]

theorem clearIgnored_swWriteWord (c : Byte) (v : Half) :
    clearIgnored (reqWord 3#2 c v) = reqWord 3#2 0#8 ((v.extractLsb' 0 8).setWidth 16) := by
  simp [clearIgnored, reqWord_and_swMask]

/-! ## Well-formed instructions -/

theorem wellFormed_dacWrite {c : Byte} {v : Half} : (Instr.dacWrite c v).WellFormed ↔ isNamedCode c = false := by
  simp [Instr.WellFormed, Instr.wellFormed]

theorem wellFormed_frameDacWrite {c : Byte} {v : Half} :
    (Instr.frameDacWrite c v).WellFormed ↔ isNamedCode c = false ∧ ¬(c = dacInitCmd ∧ v = 0x0001#16) := by
  simp [Instr.WellFormed, Instr.wellFormed, imp_iff_not_or]

theorem not_wellFormed_frameDacWrite {c : Byte} {v : Half} :
    ¬ (Instr.frameDacWrite c v).WellFormed ↔ (c = dacInitCmd ∧ v = 0x0001#16) ∨ isNamedCode c = true := by
  rw [wellFormed_frameDacWrite, not_and_or, not_not, Bool.not_eq_false, or_comm]

theorem wellFormed_frameSwWrite {m : Byte} : (Instr.frameSwWrite m).WellFormed ↔ m ≠ 0x00#8 := by
  simp [Instr.WellFormed, Instr.wellFormed]

/-- Only the three generic rows hold instructions that are spelled by another row. -/
theorem exists_generic_of_not_wellFormed {i : Instr} (h : ¬ i.WellFormed) :
    (∃ c v, i = .dacWrite c v) ∨ (∃ c v, i = .frameDacWrite c v) ∨ i = .frameSwWrite 0x00#8 := by
  cases i with
  | dacWrite c v => exact .inl ⟨c, v, rfl⟩
  | frameDacWrite c v => exact .inr (.inl ⟨c, v, rfl⟩)
  | frameSwWrite m => exact .inr (.inr (congrArg _ (not_not.mp (mt wellFormed_frameSwWrite.mpr h))))
  | _ => exact absurd rfl h

theorem requestDacWrite_wellFormed (c : Byte) (v : Half) : (requestDacWrite c v).WellFormed := by
  rcases commandByte_cases c with ⟨k, rfl⟩ | h
  · rw [requestDacWrite_named]
    cases k <;> rfl
  · rw [requestDacWrite_unnamed h]
    exact wellFormed_dacWrite.mpr h

theorem wireDacWrite_wellFormed {c : Byte} {v : Half} (hinit : ¬(c = dacInitCmd ∧ v = 0x0001#16)) :
    (wireDacWrite c v).WellFormed := by
  rcases commandByte_cases c with ⟨k, rfl⟩ | h
  · rw [wireDacWrite_named]
    cases k <;> rfl
  · rw [wireDacWrite_unnamed h]
    exact wellFormed_frameDacWrite.mpr ⟨h, hinit⟩

/-! ## Decoder and encoder -/

/-- Settles O10, row by row: the word of a row decodes to the row with the largest mask that it matches, which for a
well-formed instruction is its own. -/
theorem decodeInvertsEncode : Obligations.DecodeInvertsEncode := by
  unfold Obligations.DecodeInvertsEncode
  intro i hwf
  cases i with
  | dacInit => exact decode_dacInitWord _ _
  | dacWrite c v =>
    exact (decode_dacWriteWord c v).trans (requestDacWrite_unnamed (wellFormed_dacWrite.mp hwf) v)
  | dacWriteChn1 v => exact decode_dacWriteWord _ v
  | dacWriteChn2 v => exact decode_dacWriteWord _ v
  | dacWriteChnAll v => exact decode_dacWriteWord _ v
  | dacWriteReset v => exact decode_dacWriteWord _ v
  | swInit => exact decode_swInitWord _ _
  | swWrite m =>
    have hmask : (m.setWidth 16).extractLsb' 0 8 = m := (reqWord_low 3#2 0#8 _).symm.trans (reqWord_mask 3#2 0#8 m)
    exact (decode_swWriteWord _ _).trans (congrArg Instr.swWrite hmask)
  | frameDacWrite c v =>
    obtain ⟨hc, hinit⟩ := wellFormed_frameDacWrite.mp hwf
    exact (decode_dacWord hinit).trans (wireDacWrite_unnamed hc v)
  | frameDacWriteChn1 v => exact decode_namedFrame .chn1 v
  | frameDacWriteChn2 v => exact decode_namedFrame .chn2 v
  | frameDacWriteChnAll v => exact decode_namedFrame .chnAll v
  | frameDacWriteReset v => exact decode_namedFrame .reset v
  | frameDacInit => rfl
  | frameSwWrite m => exact decode_sw8 (wellFormed_frameSwWrite.mp hwf)
  | frameSwInit => rfl

theorem decode_wellFormed (w : Code) : (decode w).WellFormed := by
  cases w with
  | req26 q =>
    obtain ⟨op, c, v, rfl⟩ := exists_eq_reqWord q
    rcases opField_cases op with rfl | rfl | rfl | rfl
    · rw [decode_dacInitWord]; rfl
    · rw [decode_dacWriteWord]
      exact requestDacWrite_wellFormed c v
    · rw [decode_swInitWord]; rfl
    · rw [decode_swWriteWord]; rfl
  | dac24 f =>
    obtain ⟨c, v, rfl⟩ := exists_eq_dacWord f
    by_cases hinit : c = dacInitCmd ∧ v = 0x0001#16
    · rw [dacWord_eq_initFrame_iff.mpr hinit]; rfl
    · rw [decode_dacWord hinit]
      exact wireDacWrite_wellFormed hinit
  | sw8 m =>
    by_cases h : m = 0x00#8
    · subst h; rfl
    · rw [decode_sw8 h]
      exact wellFormed_frameSwWrite.mpr h

theorem encode_decode_req26 (q : BitVec 26) : encode (decode (.req26 q)) = .req26 (clearIgnored q) := by
  obtain ⟨op, c, v, rfl⟩ := exists_eq_reqWord q
  rcases opField_cases op with rfl | rfl | rfl | rfl
  · rw [decode_dacInitWord, clearIgnored_dacInitWord]; rfl
  · rw [decode_dacWriteWord, clearIgnored_dacWriteWord, encode_requestDacWrite]
  · rw [decode_swInitWord, clearIgnored_swInitWord]; rfl
  · rw [decode_swWriteWord, clearIgnored_swWriteWord]; rfl

theorem encode_decode_dac24 (f : BitVec 24) : encode (decode (.dac24 f)) = .dac24 f := by
  obtain ⟨c, v, rfl⟩ := exists_eq_dacWord f
  by_cases hinit : c = dacInitCmd ∧ v = 0x0001#16
  · rw [dacWord_eq_initFrame_iff.mpr hinit]; rfl
  · rw [decode_dacWord hinit, encode_wireDacWrite]

theorem encode_decode_sw8 (m : BitVec 8) : encode (decode (.sw8 m)) = .sw8 m := by
  by_cases h : m = 0x00#8
  · subst h; rfl
  · rw [decode_sw8 h]; rfl

/-- Ignored bits are ignored: both sides are the decoded instruction of one word that is encoded. -/
theorem decode_clearIgnored (q : BitVec 26) : decode (.req26 (clearIgnored q)) = decode (.req26 q) := by
  rw [← encode_decode_req26]
  exact decodeInvertsEncode _ (decode_wellFormed _)

/-- Settles O11: each format by the fields of its words; that ignored bits alone are lost is `decode_clearIgnored`. -/
theorem encodeInvertsDecode : Obligations.EncodeInvertsDecode := by
  unfold Obligations.EncodeInvertsDecode
  refine ⟨decode_wellFormed, encode_decode_req26, encode_decode_dac24, encode_decode_sw8, fun q r => ?_⟩
  constructor
  · intro h
    have hencode := congrArg encode h
    rw [encode_decode_req26, encode_decode_req26] at hencode
    exact Code.req26.inj hencode
  · intro h
    rw [← decode_clearIgnored q, h, decode_clearIgnored]

/-! ## Readings -/

/-- The readings of a word beside the decoded one. -/
def otherReadings : Code → List Instr
  | .req26 q =>
    if q.extractLsb' 24 2 = 1#2 ∧ isNamedCode (q.extractLsb' 16 8) then
      [.dacWrite (q.extractLsb' 16 8) (q.extractLsb' 0 16)]
    else []
  | .dac24 f =>
    if f = 0x140001#24 ∨ isNamedCode (f.extractLsb' 16 8) then
      [.frameDacWrite (f.extractLsb' 16 8) (f.extractLsb' 0 16)]
    else []
  | .sw8 f => if f = 0x00#8 then [.frameSwWrite f] else []

theorem readings_eq_cons (w : Code) : readings w = decode w :: otherReadings w := by
  cases w with
  | req26 q => simp only [readings, otherReadings, decode, apply_ite (List.cons _)]
  | dac24 f => simp only [readings, otherReadings, decode, apply_ite (List.cons _)]
  | sw8 m =>
    by_cases h : m = 0x00#8
    · subst h; rfl
    · simp only [readings, otherReadings, decode_sw8 h, if_neg h]

theorem dacWriteWord_eq_clearIgnored_iff {c : Byte} {v : Half} {q : BitVec 26} :
    reqWord 1#2 c v = clearIgnored q ↔ q = reqWord 1#2 c v := by
  obtain ⟨op, c', v', rfl⟩ := exists_eq_reqWord q
  rcases opField_cases op with rfl | rfl | rfl | rfl
  · simp [clearIgnored_dacInitWord]
  · rw [clearIgnored_dacWriteWord, eq_comm]
  · simp [clearIgnored_swInitWord]
  · simp [clearIgnored_swWriteWord]

/-- The other readings of a word are the instructions with that word that another row spells. -/
theorem mem_otherReadings_req26 {q : BitVec 26} {i : Instr} :
    i ∈ otherReadings (.req26 q) ↔ ¬ i.WellFormed ∧ encode i = .req26 (clearIgnored q) := by
  constructor
  · obtain ⟨op, c, v, rfl⟩ := exists_eq_reqWord q
    simp only [otherReadings, reqWord_op, reqWord_cmd, reqWord_value, List.mem_ite_nil_right, List.mem_singleton]
    rintro ⟨⟨rfl, hc⟩, rfl⟩
    simp [wellFormed_dacWrite, hc, encode, clearIgnored_dacWriteWord]
  · rintro ⟨hwf, h⟩
    rcases exists_generic_of_not_wellFormed hwf with ⟨c, v, rfl⟩ | ⟨c, v, rfl⟩ | rfl
    · obtain rfl := dacWriteWord_eq_clearIgnored_iff.mp (Code.req26.inj h)
      simpa [otherReadings, wellFormed_dacWrite] using hwf
    · cases h
    · cases h

theorem mem_otherReadings_dac24 {f : BitVec 24} {i : Instr} :
    i ∈ otherReadings (.dac24 f) ↔ ¬ i.WellFormed ∧ encode i = .dac24 f := by
  constructor
  · obtain ⟨c, v, rfl⟩ := exists_eq_dacWord f
    simp only [otherReadings, dacWord_eq_initFrame_iff, dacWord_cmd, dacWord_value, List.mem_ite_nil_right,
      List.mem_singleton]
    rintro ⟨hc, rfl⟩
    exact ⟨not_wellFormed_frameDacWrite.mpr hc, rfl⟩
  · rintro ⟨hwf, h⟩
    rcases exists_generic_of_not_wellFormed hwf with ⟨c, v, rfl⟩ | ⟨c, v, rfl⟩ | rfl
    · cases h
    · obtain rfl := Code.dac24.inj h
      have hc := not_wellFormed_frameDacWrite.mp hwf
      simp [otherReadings, dacWord_eq_initFrame_iff, hc]
    · cases h

theorem mem_otherReadings_sw8 {m : BitVec 8} {i : Instr} :
    i ∈ otherReadings (.sw8 m) ↔ ¬ i.WellFormed ∧ encode i = .sw8 m := by
  constructor
  · simp only [otherReadings, List.mem_ite_nil_right, List.mem_singleton]
    rintro ⟨rfl, rfl⟩
    exact ⟨Bool.false_ne_true, rfl⟩
  · rintro ⟨hwf, h⟩
    rcases exists_generic_of_not_wellFormed hwf with ⟨c, v, rfl⟩ | ⟨c, v, rfl⟩ | rfl
    · cases h
    · cases h
    · obtain rfl := Code.sw8.inj h
      simp [otherReadings]

/-- Of the instructions with one word, the well-formed one is the decoded one. -/
theorem encode_eq_iff {w : Code} {i : Instr} (hw : encode (decode w) = w) :
    encode i = w ↔ i = decode w ∨ ¬ i.WellFormed ∧ encode i = w := by
  constructor
  · intro h
    by_cases hwf : i.WellFormed
    · exact .inl (by rw [← h, decodeInvertsEncode i hwf])
    · exact .inr ⟨hwf, h⟩
  · rintro (rfl | ⟨-, h⟩)
    · exact hw
    · exact h

/-- Settles O13: beside the decoded instruction, the readings are the instructions that are not well-formed. -/
theorem readingsAreAllReadings : Obligations.ReadingsAreAllReadings := by
  unfold Obligations.ReadingsAreAllReadings
  simp only [readings_eq_cons, List.mem_cons, mem_otherReadings_req26, mem_otherReadings_dac24, mem_otherReadings_sw8]
  refine ⟨fun q i => ?_, fun f i => (encode_eq_iff (encode_decode_dac24 f)).symm,
    fun m i => (encode_eq_iff (encode_decode_sw8 m)).symm, fun w => rfl, rfl, rfl⟩
  rw [← decode_clearIgnored]
  refine (encode_eq_iff ?_).symm
  rw [decode_clearIgnored, encode_decode_req26]

/-! ## Masks and matches -/

theorem reqWord_and_opMask_eq_iff {op : BitVec 2} {c : Byte} {v : Half} (k : BitVec 2) :
    reqWord op c v &&& 0x3000000#26 = reqWord k 0#8 0#16 ↔ op = k := by
  simp [reqWord_and_opMask]

theorem reqWord_and_cmdMask_eq_iff {op : BitVec 2} {c : Byte} {v : Half} (k : Command) :
    reqWord op c v &&& 0x3FF0000#26 = reqWord 1#2 (cmdCode k) 0#16 ↔ op = 1#2 ∧ c = cmdCode k := by
  simp [reqWord_and_cmdMask]

theorem dacWord_and_cmdMask_eq_iff {c : Byte} {v : Half} (k : Command) :
    dacWord c v &&& 0xFF0000#24 = dacWord (cmdCode k) 0#16 ↔ c = cmdCode k := by
  simp [dacWord_and_cmdMask]

/-- The eight rows of level `request`. -/
theorem decode_req26_follows_table (q : BitVec 26) :
    (q &&& 0x3000000#26 = 0x0000000#26 ↔ decode (.req26 q) = .dacInit) ∧
    (q &&& 0x3FF0000#26 = 0x1180000#26 ↔ ∃ v, decode (.req26 q) = .dacWriteChn1 v) ∧
    (q &&& 0x3FF0000#26 = 0x1190000#26 ↔ ∃ v, decode (.req26 q) = .dacWriteChn2 v) ∧
    (q &&& 0x3FF0000#26 = 0x1F80000#26 ↔ ∃ v, decode (.req26 q) = .dacWriteChnAll v) ∧
    (q &&& 0x3FF0000#26 = 0x12F0000#26 ↔ ∃ v, decode (.req26 q) = .dacWriteReset v) ∧
    (q &&& 0x3000000#26 = 0x1000000#26 ∧ q &&& 0x3FF0000#26 ≠ 0x1180000#26 ∧ q &&& 0x3FF0000#26 ≠ 0x1190000#26 ∧
      q &&& 0x3FF0000#26 ≠ 0x1F80000#26 ∧ q &&& 0x3FF0000#26 ≠ 0x12F0000#26 ↔
      ∃ c v, decode (.req26 q) = .dacWrite c v) ∧
    (q &&& 0x3000000#26 = 0x2000000#26 ↔ decode (.req26 q) = .swInit) ∧
    (q &&& 0x3000000#26 = 0x3000000#26 ↔ ∃ m, decode (.req26 q) = .swWrite m) := by
  obtain ⟨op, c, v, rfl⟩ := exists_eq_reqWord q
  have hdacInit : reqWord op c v &&& 0x3000000#26 = 0x0000000#26 ↔ op = 0#2 := reqWord_and_opMask_eq_iff 0#2
  have hdacWrite : reqWord op c v &&& 0x3000000#26 = 0x1000000#26 ↔ op = 1#2 := reqWord_and_opMask_eq_iff 1#2
  have hswInit : reqWord op c v &&& 0x3000000#26 = 0x2000000#26 ↔ op = 2#2 := reqWord_and_opMask_eq_iff 2#2
  have hswWrite : reqWord op c v &&& 0x3000000#26 = 0x3000000#26 ↔ op = 3#2 := reqWord_and_opMask_eq_iff 3#2
  have hchn1 : reqWord op c v &&& 0x3FF0000#26 = 0x1180000#26 ↔ op = 1#2 ∧ c = cmdCode .chn1 :=
    reqWord_and_cmdMask_eq_iff .chn1
  have hchn2 : reqWord op c v &&& 0x3FF0000#26 = 0x1190000#26 ↔ op = 1#2 ∧ c = cmdCode .chn2 :=
    reqWord_and_cmdMask_eq_iff .chn2
  have hchnAll : reqWord op c v &&& 0x3FF0000#26 = 0x1F80000#26 ↔ op = 1#2 ∧ c = cmdCode .chnAll :=
    reqWord_and_cmdMask_eq_iff .chnAll
  have hreset : reqWord op c v &&& 0x3FF0000#26 = 0x12F0000#26 ↔ op = 1#2 ∧ c = cmdCode .reset :=
    reqWord_and_cmdMask_eq_iff .reset
  simp only [Ne, hdacInit, hdacWrite, hswInit, hswWrite, hchn1, hchn2, hchnAll, hreset]
  rcases opField_cases op with rfl | rfl | rfl | rfl
  · simp
  · rcases commandByte_cases c with ⟨k, rfl⟩ | hc
    · cases k <;> simp [namedRequest]
    · simp [requestDacWrite_unnamed hc, ne_cmdCode_of_unnamed hc]
  · simp
  · simp

/-- The rows of level `wire` of the DAC. -/
theorem decode_dac24_follows_table (f : BitVec 24) :
    (f &&& 0xFFFFFF#24 = 0x140001#24 ↔ decode (.dac24 f) = .frameDacInit) ∧
    (f &&& 0xFF0000#24 = 0x180000#24 ↔ ∃ v, decode (.dac24 f) = .frameDacWriteChn1 v) ∧
    (f &&& 0xFF0000#24 = 0x190000#24 ↔ ∃ v, decode (.dac24 f) = .frameDacWriteChn2 v) ∧
    (f &&& 0xFF0000#24 = 0xF80000#24 ↔ ∃ v, decode (.dac24 f) = .frameDacWriteChnAll v) ∧
    (f &&& 0xFF0000#24 = 0x2F0000#24 ↔ ∃ v, decode (.dac24 f) = .frameDacWriteReset v) ∧
    (f &&& 0xFFFFFF#24 ≠ 0x140001#24 ∧ f &&& 0xFF0000#24 ≠ 0x180000#24 ∧ f &&& 0xFF0000#24 ≠ 0x190000#24 ∧
      f &&& 0xFF0000#24 ≠ 0xF80000#24 ∧ f &&& 0xFF0000#24 ≠ 0x2F0000#24 ↔
      ∃ c v, decode (.dac24 f) = .frameDacWrite c v) := by
  obtain ⟨c, v, rfl⟩ := exists_eq_dacWord f
  have hinit : dacWord c v &&& 0xFFFFFF#24 = 0x140001#24 ↔ c = dacInitCmd ∧ v = 0x0001#16 := by
    rw [show 0xFFFFFF#24 = BitVec.allOnes 24 from rfl, BitVec.and_allOnes, dacWord_eq_initFrame_iff]
  have hchn1 : dacWord c v &&& 0xFF0000#24 = 0x180000#24 ↔ c = cmdCode .chn1 := dacWord_and_cmdMask_eq_iff .chn1
  have hchn2 : dacWord c v &&& 0xFF0000#24 = 0x190000#24 ↔ c = cmdCode .chn2 := dacWord_and_cmdMask_eq_iff .chn2
  have hchnAll : dacWord c v &&& 0xFF0000#24 = 0xF80000#24 ↔ c = cmdCode .chnAll := dacWord_and_cmdMask_eq_iff .chnAll
  have hreset : dacWord c v &&& 0xFF0000#24 = 0x2F0000#24 ↔ c = cmdCode .reset := dacWord_and_cmdMask_eq_iff .reset
  simp only [Ne, hinit, hchn1, hchn2, hchnAll, hreset]
  by_cases h : c = dacInitCmd ∧ v = 0x0001#16
  · rw [dacWord_eq_initFrame_iff.mpr h]
    obtain ⟨rfl, rfl⟩ := h
    simp [(cmdCode_ne_dacInitCmd _).symm]
  · rw [decode_dacWord h]
    rcases commandByte_cases c with ⟨k, rfl⟩ | hc
    · cases k <;> simp [namedFrame, cmdCode_ne_dacInitCmd]
    · simp [wireDacWrite_unnamed hc, ne_cmdCode_of_unnamed hc, h]

/-- The rows of level `wire` of the switch bank. -/
theorem decode_sw8_follows_table (f : BitVec 8) :
    (f &&& 0xFF#8 = 0x00#8 ↔ decode (.sw8 f) = .frameSwInit) ∧
    (f &&& 0xFF#8 ≠ 0x00#8 ↔ ∃ m, decode (.sw8 f) = .frameSwWrite m) := by
  rw [show 0xFF#8 = BitVec.allOnes 8 from rfl, BitVec.and_allOnes]
  by_cases h : f = 0x00#8
  · simp [h]
  · simp [h, decode_sw8 h]

/-- Settles O12, format by format. -/
theorem decodeFollowsMasksAndMatches : Obligations.DecodeFollowsMasksAndMatches :=
  ⟨decode_req26_follows_table, decode_dac24_follows_table, decode_sw8_follows_table⟩

/-- Settles O14: the decoder computes on each of the words. -/
theorem knownWordsDecode : Obligations.KnownWordsDecode :=
  ⟨rfl, rfl, rfl, rfl, rfl, rfl, rfl, rfl, rfl, rfl, rfl⟩

end Sys2Proof
end

section
/-! SUPPORT. Operands and frames (spec 30_encoding R61, R62, R64, R65, R67, R68, R72, R75, R77, R78): the number of a
frame and its fields, the events an accepted request adds to the trace, and the literals of a request line. -/

namespace Sys2Proof

open Machine

/-! ## The number of a frame -/

@[simp] theorem dacWord_hi (c : Byte) (v : Half) : (dacWord c v).extractLsb' 8 8 = hiByte v := by
  apply BitVec.eq_of_toNat_eq
  have := v.isLt
  rw [BitVec.extractLsb'_toNat, dacWord_toNat, hiByte_toNat, Nat.shiftRight_eq_div_pow]
  omega

@[simp] theorem dacWord_lo (c : Byte) (v : Half) : (dacWord c v).extractLsb' 0 8 = loByte v := by
  apply BitVec.eq_of_toNat_eq
  rw [BitVec.extractLsb'_toNat, dacWord_toNat, loByte_toNat, Nat.shiftRight_zero]
  omega

theorem frameNumber_encDac_eq_dacWord (c : Byte) (v : Half) : frameNumber (encDac c v) = (dacWord c v).toNat := by
  rw [frameNumber_encDac, dacWord_toNat]

/-- Settles O8: the number of a DAC frame is its word, and a word is its two fields. -/
theorem dacFrameNumberIsBijective : Obligations.DacFrameNumberIsBijective := by
  unfold Obligations.DacFrameNumberIsBijective
  refine ⟨frameNumber_encDac, fun F => ?_, fun m m' h => List.head_eq_of_cons_eq h⟩
  obtain ⟨c, v, rfl⟩ := exists_eq_dacWord F
  refine ⟨c, v, frameNumber_encDac_eq_dacWord c v, (dacWord_cmd c v).symm, (dacWord_value c v).symm, fun c' v' h => ?_⟩
  rw [frameNumber_encDac_eq_dacWord] at h
  exact dacWord_inj (BitVec.eq_of_toNat_eq h)

end Sys2Proof

namespace Sys2Proof.Machine

theorem eq_of_bytes_eq {v w : Half} (hhi : hiByte v = hiByte w) (hlo : loByte v = loByte w) : v = w := by
  have hhi := congrArg BitVec.toNat hhi
  have hlo := congrArg BitVec.toNat hlo
  rw [hiByte_toNat, hiByte_toNat] at hhi
  rw [loByte_toNat, loByte_toNat] at hlo
  exact BitVec.eq_of_toNat_eq (by omega)

/-! ## What an accepted instruction does -/

theorem init_accepted {op : Op} {s : State} (hq : s.seq = .idle) (hinit : op.isInit = true) :
    refusalOf op s = none := (refusalOf_eq_none op s).mpr ⟨hq, .inl hinit⟩

theorem ready_accepted {op : Op} {s : State} (hq : s.seq = .idle) (hready : s.st.get op.dev = .ready) :
    refusalOf op s = none := (refusalOf_eq_none op s).mpr ⟨hq, .inr hready⟩

theorem exec_accepted {i : Instr} {s : State} (h : refusalOf (opOf i) s = none) :
    exec i s = .next (completed Config.params (opOf i) s) := by
  rw [exec_eq_request, request_of_accepted h]

/-- The bytes that an accepted instruction puts on the bus are the frame of its operation. -/
theorem exec_sends_frameOf {i : Instr} {s : State} (h : refusalOf (opOf i) s = none) :
    ∃ t es, exec i s = .next t ∧ t.trace = s.trace ++ es ∧ bytesOf es = frameOf (opOf i) :=
  ⟨_, _, exec_accepted h, rfl, bytesOf_steps _ _⟩

end Sys2Proof.Machine

namespace Sys2Proof

open Machine

/-- Settles O1: the bytes as slices, the value from its bytes, and the frame an accepted write sends. -/
theorem valueSplitsIntoItsTwoBytes : Obligations.ValueSplitsIntoItsTwoBytes := by
  unfold Obligations.ValueSplitsIntoItsTwoBytes
  refine ⟨fun v => ⟨rfl, hiByte_eq_extractLsb' v, rfl, loByte_eq_extractLsb' v⟩, fun v w => eq_of_bytes_eq, ?_⟩
  intro c v s hq hready
  exact exec_sends_frameOf (i := .dacWrite c v) (ready_accepted hq hready)

/-- Settles O4: the fields of the word that is the frame's number, and the frame of `CHN_1`. -/
theorem dacFrameFields : Obligations.DacFrameFields := by
  unfold Obligations.DacFrameFields
  refine ⟨fun c v => ⟨frameNumber_encDac_eq_dacWord c v, dacWord_cmd c v, dacWord_hi c v, dacWord_lo c v⟩, ?_⟩
  intro v s hq hready
  exact exec_sends_frameOf (i := .dacWriteChn1 v) (ready_accepted hq hready)

/-- Settles O7: an idle block accepts an init whatever its state, and its frame is constant. -/
theorem initFramesAreConstant : Obligations.InitFramesAreConstant := by
  unfold Obligations.InitFramesAreConstant
  refine ⟨fun s hq => ?_, rfl, cmdCode_ne_dacInitCmd, rfl, fun s hq => ?_⟩
  · exact exec_sends_frameOf (i := .dacInit) (init_accepted hq rfl)
  · exact exec_sends_frameOf (i := .swInit) (init_accepted hq rfl)

/-- Settles O5: the frame of a switch write is its mask. -/
theorem switchFrameIsTheMask : Obligations.SwitchFrameIsTheMask := by
  unfold Obligations.SwitchFrameIsTheMask
  intro m
  refine ⟨frameNumber_encSw m, fun s hq hready => ?_⟩
  exact exec_sends_frameOf (i := .swWrite m) (ready_accepted hq hready)

/-- Settles O6: the frames of the two writes begin with their operand byte. -/
theorem operandBytesPassThrough : Obligations.OperandBytesPassThrough := by
  unfold Obligations.OperandBytesPassThrough
  refine ⟨fun c v s hq hready => ?_, fun _ _ => rfl, fun m s hq hready => ?_⟩
  · obtain ⟨t, es, hexec, htrace, hbytes⟩ := exec_sends_frameOf (i := .dacWrite c v) (ready_accepted hq hready)
    exact ⟨t, es, hexec, htrace, congrArg List.head? hbytes⟩
  · exact exec_sends_frameOf (i := .swWrite m) (ready_accepted hq hready)

/-- Settles O23: an init frame is executed as its init, which an idle block accepts. -/
theorem wireInitsComplete : Obligations.WireInitsComplete := by
  unfold Obligations.WireInitsComplete
  intro s hq
  exact ⟨exec_accepted (i := .frameDacInit) (init_accepted hq rfl),
    exec_accepted (i := .frameSwInit) (init_accepted hq rfl)⟩

/-- Settles O22: a frame row is executed as its write, which an idle block with the driver Ready accepts. -/
theorem wireWritesComplete : Obligations.WireWritesComplete := by
  unfold Obligations.WireWritesComplete
  refine ⟨fun v s hq hready => ⟨fun c => ?_, ?_, ?_, ?_, ?_⟩, fun m s hq hready => ?_⟩
  · exact exec_accepted (i := .frameDacWrite c v) (ready_accepted hq hready)
  · exact exec_accepted (i := .frameDacWriteChn1 v) (ready_accepted hq hready)
  · exact exec_accepted (i := .frameDacWriteChn2 v) (ready_accepted hq hready)
  · exact exec_accepted (i := .frameDacWriteChnAll v) (ready_accepted hq hready)
  · exact exec_accepted (i := .frameDacWriteReset v) (ready_accepted hq hready)
  · exact exec_accepted (i := .frameSwWrite m) (ready_accepted hq hready)

/-! ## Literals -/

theorem sizedLiteral_of_lt {bits n : Nat} {text : List Char} (h : literalValue text = some n) (hn : n < 2 ^ bits) :
    sizedLiteral bits text = .ok (BitVec.ofNat bits n) := by
  simp only [sizedLiteral, h, if_pos hn]

theorem sizedLiteral_of_le {bits n : Nat} {text : List Char} (h : literalValue text = some n) (hn : 2 ^ bits ≤ n) :
    sizedLiteral bits text = .error (.literalTooWide n bits) := by
  simp only [sizedLiteral, h, if_neg hn.not_gt]

/-- Settles O16, by whether the value is below `2 ^ bits`. -/
theorem literalsMustFit : Obligations.LiteralsMustFit := by
  unfold Obligations.LiteralsMustFit
  intro bits text n h
  refine ⟨fun hn => ⟨_, sizedLiteral_of_lt h hn, ?_⟩, sizedLiteral_of_le h⟩
  rw [BitVec.toNat_ofNat, Nat.mod_eq_of_lt hn]

end Sys2Proof
end

section
/-! SUPPORT. The DAC encoder and its driver (spec 40_dac_encoder R80 to R89), and the frame of an accepted
instruction: what it leaves of either driver, and that the two configurations differ (00_scope R8). -/

namespace Sys2Proof

open Machine

/-! ## The number of a request word -/

theorem reqWord_toNat (op : BitVec 2) (c : Byte) (v : Half) :
    (reqWord op c v).toNat = op.toNat * 0x1000000 + c.toNat * 65536 + v.toNat := by
  have hfields : (reqWord op c v).toNat = (op.toNat <<< 8 ||| c.toNat) <<< 16 ||| v.toNat := by
    rw [← BitVec.toNat_append, ← BitVec.toNat_append]
    rfl
  rw [hfields, ← Nat.shiftLeft_add_eq_or_of_lt c.isLt, ← Nat.shiftLeft_add_eq_or_of_lt v.isLt,
    Nat.shiftLeft_eq, Nat.shiftLeft_eq]
  ring

theorem encode_namedRequest_toNat (k : Command) (v : Half) :
    (encode (namedRequest k v)).toNat = 0x1000000 + (cmdCode k).toNat * 65536 + v.toNat := by
  rw [← requestDacWrite_named, encode_requestDacWrite]
  exact reqWord_toNat 1#2 (cmdCode k) v

theorem opOf_namedRequest (k : Command) (v : Half) : opOf (namedRequest k v) = .dacWrite (cmdCode k) v := by
  cases k <;> rfl

/-! ## The two configurations -/

/-- The configurations of the two drivers differ, their modes being different (spec 00_scope R8). -/
theorem Params.cfg_ne {p : Params} (h : p.Legal) {d e : Dev} (hde : d ≠ e) : p.cfg d ≠ p.cfg e := by
  obtain ⟨-, hmode, -⟩ := h
  intro hcfg
  have hmodes : (p.cfg d).mode = (p.cfg e).mode := congrArg BusCfg.mode hcfg
  cases d with
  | dac =>
    cases e with
    | dac => exact hde rfl
    | sw => exact hmode hmodes
  | sw =>
    cases e with
    | dac => exact hmode hmodes.symm
    | sw => exact hde rfl

end Sys2Proof

namespace Sys2Proof.Machine

/-! ## What an operation leaves unchanged -/

/-- Only its own init changes the state and the output mode of a driver. -/
theorem completed_st_oe_of_no_init (p : Params) {op : Op} (s : State) {d : Dev} (h : op.isInit = true → d ≠ op.dev) :
    (completed p op s).st.get d = s.st.get d ∧ (completed p op s).oe.get d = s.oe.get d := by
  cases hi : op.isInit with
  | false => simp [completed, hi]
  | true => simp [completed, hi, PerDev.get_set_of_ne _ _ (h hi)]

theorem completed_of_other_dev (p : Params) {op : Op} (s : State) {d : Dev} (hd : d ≠ op.dev) :
    (completed p op s).st.get d = s.st.get d ∧ (completed p op s).oe.get d = s.oe.get d ∧
      (completed p op s).cs.get d = s.cs.get d := by
  obtain ⟨hst, hoe⟩ := completed_st_oe_of_no_init p s fun _ => hd
  exact ⟨hst, hoe, PerDev.get_set_of_ne _ _ hd⟩

/-- No operation begins the bus with the other driver's configuration. -/
theorem ne_busBegin_other_of_mem_steps {p : Params} (hp : p.Legal) {op : Op} {e : Event} {d : Dev}
    (h : e ∈ steps p op) (hd : d ≠ op.dev) : e ≠ .busBegin (p.cfg d) := by
  rintro rfl
  rcases mem_steps_cases h with h | ⟨b, hb⟩
  · generalize hcfg : p.cfg d = cfg at h
    cases h
    exact Params.cfg_ne hp hd hcfg
  · cases hb

/-- The instructions that are an init of the DAC. -/
theorem dacInit_of_isInit {i : Instr} (hinit : (opOf i).isInit = true) (hdev : (opOf i).dev = .dac) :
    i = .dacInit ∨ i = .frameDacInit := by
  rcases (opOf_isInit i).mp hinit with rfl | rfl | rfl | rfl
  · exact .inl rfl
  · cases hdev
  · exact .inr rfl
  · cases hdev

/-- The instructions that are an init of the switch bank. -/
theorem swInit_of_isInit {i : Instr} (hinit : (opOf i).isInit = true) (hdev : (opOf i).dev = .sw) :
    i = .swInit ∨ i = .frameSwInit := by
  rcases (opOf_isInit i).mp hinit with rfl | rfl | rfl | rfl
  · cases hdev
  · exact .inl rfl
  · cases hdev
  · exact .inr rfl

/-- What a named write does in an idle block with the DAC driver Ready, and the numbers of its frame and its word
(spec 40_dac_encoder R83 to R86). -/
theorem namedRequest_completes (k : Command) (v : Half) {s : State} (hq : s.seq = .idle)
    (hready : s.st.get .dac = .ready) :
    exec (namedRequest k v) s = .next (completed Config.params (.dacWrite (cmdCode k) v) s) ∧
      frameNumber (encDac (cmdCode k) v) = (cmdCode k).toNat * 65536 + v.toNat ∧
      (encode (namedRequest k v)).toNat = 0x1000000 + (cmdCode k).toNat * 65536 + v.toNat := by
  refine ⟨?_, frameNumber_encDac _ v, encode_namedRequest_toNat k v⟩
  rw [exec_eq_request, opOf_namedRequest]
  exact request_of_accepted (ready_accepted hq hready)

end Sys2Proof.Machine

namespace Sys2Proof

open Machine

/-! ## The encoder -/

/-- Settles O2: the two bytes as quotient and remainder, and as slices of the value. -/
theorem splitIsDivisionBy256 : Obligations.SplitIsDivisionBy256 := by
  unfold Obligations.SplitIsDivisionBy256
  refine ⟨fun v => ⟨hiByte_toNat v, loByte_toNat v, ?_⟩, fun v w h => ?_, fun v w h => ?_, by decide⟩
  · rw [hiByte_toNat, loByte_toNat]
    exact Nat.div_add_mod' v.toNat 256
  · rw [hiByte_eq_extractLsb', hiByte_eq_extractLsb', h]
  · rw [loByte_eq_extractLsb', loByte_eq_extractLsb', h]

/-- Settles O3: equal frames have equal bytes, and the two data bytes determine the value. -/
theorem dacEncoderIsInjective : Obligations.DacEncoderIsInjective := by
  unfold Obligations.DacEncoderIsInjective
  refine ⟨fun _ _ => rfl, fun c c' v v' h => ?_, rfl⟩
  simp only [encDac, List.cons.injEq] at h
  obtain ⟨hc, hhi, hlo, -⟩ := h
  exact ⟨hc, eq_of_bytes_eq hhi hlo⟩

/-! ## The operations of the DAC driver -/

/-- Settles O17: an idle block accepts the init, whose event list is that of R81. -/
theorem dacInitCompletes : Obligations.DacInitCompletes := by
  unfold Obligations.DacInitCompletes
  intro s hq
  exact exec_accepted (i := .dacInit) (init_accepted hq rfl)

/-- Settles O18: the write is accepted, and its event list is that of R82. -/
theorem dacWriteCompletes : Obligations.DacWriteCompletes := by
  unfold Obligations.DacWriteCompletes
  intro c v s hq hready
  exact exec_accepted (i := .dacWrite c v) (ready_accepted hq hready)

/-- Settles O19: the fact about a named write, for each of the four command codes. -/
theorem namedDacWritesComplete : Obligations.NamedDacWritesComplete := by
  unfold Obligations.NamedDacWritesComplete
  intro v s hq hready
  exact ⟨namedRequest_completes .chn1 v hq hready, namedRequest_completes .chn2 v hq hready,
    namedRequest_completes .chnAll v hq hready, namedRequest_completes .reset v hq hready⟩

/-- Settles O24: acceptance does not look at the command byte, and a write leaves the driver's state as it is. -/
theorem unlistedCommandIsSentUnchanged : Obligations.UnlistedCommandIsSentUnchanged := by
  unfold Obligations.UnlistedCommandIsSentUnchanged
  intro c v s _ _ _ _ hq hready
  exact ⟨_, _, exec_accepted (i := .dacWrite c v) (ready_accepted hq hready), rfl, rfl, bytesOf_steps _ _, hready⟩

/-! ## The frame of an instruction -/

/-- Settles O31: an operation's events are all its own, and its next state differs in its own driver only. -/
theorem operationsLeaveTheOtherDriverAlone : Obligations.OperationsLeaveTheOtherDriverAlone := by
  unfold Obligations.OperationsLeaveTheOtherDriverAlone
  intro i s t d h hd
  obtain ⟨-, rfl⟩ := exec_next h
  obtain ⟨hst, hoe, hcs⟩ := completed_of_other_dev Config.params s hd
  exact ⟨hst, hoe, hcs, _, rfl, fun e he =>
    ⟨names_other_of_mem_steps he hd, ne_busBegin_other_of_mem_steps Config.params_legal he hd⟩⟩

/-- Settles O32, from the state an accepted request leaves; a driver's `st` and `oe` change in its own init only. -/
theorem instructionFrame : Obligations.InstructionFrame := by
  unfold Obligations.InstructionFrame
  intro i s t h
  obtain ⟨-, rfl⟩ := exec_next h
  refine ⟨rfl, rfl, rfl, rfl, rfl, fun d => completed_of_other_dev _ s, fun hreq hframe => ?_, fun hreq hframe => ?_,
    _, rfl⟩
  · refine completed_st_oe_of_no_init _ s fun hinit hdev => ?_
    exact (dacInit_of_isInit hinit hdev.symm).elim hreq hframe
  · refine completed_st_oe_of_no_init _ s fun hinit hdev => ?_
    exact (swInit_of_isInit hinit hdev.symm).elim hreq hframe

end Sys2Proof
end

section
/-! SUPPORT. The switch driver (spec 41_switch_encoder R101, R102): what its init and its writes do when accepted. -/

namespace Sys2Proof

open Machine

/-- Settles O20: an idle block accepts the init, whose event list is that of R101. -/
theorem switchInitCompletes : Obligations.SwitchInitCompletes := by
  unfold Obligations.SwitchInitCompletes
  intro s hq
  have haccepted : refusalOf .swInit s = none := init_accepted hq rfl
  exact exec_accepted (i := .swInit) haccepted

/-- Settles O21: an idle block with the driver Ready accepts the write, whose event list is that of R102. -/
theorem switchWriteCompletes : Obligations.SwitchWriteCompletes := by
  unfold Obligations.SwitchWriteCompletes
  intro m s hq hready
  have haccepted : refusalOf (.swWrite m) s = none := ready_accepted hq hready
  exact exec_accepted (i := .swWrite m) haccepted

end Sys2Proof
end

section
/-! SUPPORT. What an operation's events come to (spec 42_cs_sequencer R117 to R123): the projections and counts of an
event list over its parts, where the transfers of an operation stand, and how each operation ends. -/

namespace Sys2Proof.Machine

/-! ## The projections and counts over the parts of a list -/

theorem edgesAndBytes_append (d : Dev) (xs ys : List Event) :
    edgesAndBytes d (xs ++ ys) = edgesAndBytes d xs ++ edgesAndBytes d ys := List.filter_append ..

theorem edgesAndBus_append (xs ys : List Event) : edgesAndBus (xs ++ ys) = edgesAndBus xs ++ edgesAndBus ys :=
  List.filter_append ..

theorem withoutWaits_append (xs ys : List Event) : withoutWaits (xs ++ ys) = withoutWaits xs ++ withoutWaits ys :=
  List.filter_append ..

theorem waitCount_append (xs ys : List Event) : waitCount (xs ++ ys) = waitCount xs + waitCount ys :=
  List.countP_append

theorem beginCount_append (xs ys : List Event) : beginCount (xs ++ ys) = beginCount xs + beginCount ys :=
  List.countP_append

theorem endCount_append (xs ys : List Event) : endCount (xs ++ ys) = endCount xs + endCount ys :=
  List.countP_append

@[simp] theorem edgesAndBytes_slot (d : Dev) (filled : Bool) : edgesAndBytes d (slot filled) = [] := by
  cases filled <;> rfl

@[simp] theorem edgesAndBus_slot (filled : Bool) : edgesAndBus (slot filled) = [] := by
  cases filled <;> rfl

@[simp] theorem withoutWaits_slot (filled : Bool) : withoutWaits (slot filled) = [] := by
  cases filled <;> rfl

@[simp] theorem waitCount_slot (filled : Bool) : waitCount (slot filled) = filled.toNat := by
  cases filled <;> rfl

@[simp] theorem beginCount_slot (filled : Bool) : beginCount (slot filled) = 0 := by
  cases filled <;> rfl

@[simp] theorem endCount_slot (filled : Bool) : endCount (slot filled) = 0 := by
  cases filled <;> rfl

/-! ## The whole list of an operation -/

@[simp] theorem beginCount_steps (p : Params) (op : Op) : beginCount (steps p op) = 1 := by
  cases op with
  | dacInit =>
    simp only [steps, dacInitSteps, beginCount_append, beginCount_slot]
    rfl
  | dacWrite c v => rfl
  | swInit =>
    simp only [steps, swInitSteps, beginCount_append, beginCount_slot]
    rfl
  | swWrite m => rfl

@[simp] theorem endCount_steps (p : Params) (op : Op) : endCount (steps p op) = 1 := by
  cases op with
  | dacInit =>
    simp only [steps, dacInitSteps, endCount_append, endCount_slot]
    rfl
  | dacWrite c v => rfl
  | swInit =>
    simp only [steps, swInitSteps, endCount_append, endCount_slot]
    rfl
  | swWrite m => rfl

/-- The last event of an operation is `BusEnd` (spec 42_cs_sequencer R122). -/
theorem getLast?_steps (p : Params) (op : Op) : (steps p op).getLast? = some .busEnd := by
  cases op with
  | dacInit => exact List.getLast?_concat
  | dacWrite c v => rfl
  | swInit => exact List.getLast?_concat
  | swWrite m => rfl

theorem steps_length_pos (p : Params) (op : Op) : 0 < (steps p op).length :=
  List.length_pos_of_mem (List.mem_of_getLast? (getLast?_steps p op))

/-- After an operation the bus is in no transaction. -/
theorem busAfter_steps (p : Params) (op : Op) (t : List Event) : busAfter (t ++ steps p op) = none := by
  obtain ⟨es, hes⟩ := List.getLast?_eq_some_iff.mp (getLast?_steps p op)
  rw [hes, ← List.append_assoc, busAfter_append]
  rfl

/-! ## Where the transfers of an operation stand -/

theorem not_transfer_mem_of_framing {p : Params} {op : Op} {es : List Event} (h : ∀ e ∈ es, FramingEvent p op e)
    (b : Byte) : .transfer b ∉ es := by
  intro hb
  cases h _ hb

/-- Before a transfer of an operation stand the events before its frame, and transfers. -/
theorem before_transfer_of_steps {p : Params} {op : Op} {before after : List Event} {b : Byte}
    (h : steps p op = before ++ .transfer b :: after) : ∃ sent, before = beforeFrame p op ++ transfers sent := by
  have hbefore := not_transfer_mem_of_framing (framingEvent_beforeFrame p op) b
  have hafter := not_transfer_mem_of_framing (framingEvent_afterFrame p op) b
  rw [steps_eq_around_frame, List.append_assoc, List.append_eq_append_iff] at h
  rcases h with ⟨early, rfl, h⟩ | ⟨late, hlate, h⟩
  · rw [List.append_eq_append_iff] at h
    rcases h with ⟨late, rfl, h⟩ | ⟨late, hframe, -⟩
    · exact absurd (h ▸ List.mem_append_right late List.mem_cons_self) hafter
    · obtain ⟨sent, -, -, rfl, -⟩ := List.map_eq_append_iff.mp hframe
      exact ⟨sent, rfl⟩
  · cases late with
    | nil => exact ⟨[], by simpa [transfers] using hlate.symm⟩
    | cons e late =>
      obtain ⟨rfl, -⟩ := List.cons.inj h
      exact absurd (hlate ▸ List.mem_append_right before List.mem_cons_self) hbefore

theorem foldl_lineStep_slot (d : Dev) (filled : Bool) (l : Option Level) :
    (slot filled).foldl (lineStep d) l = l := by
  cases filled <;> rfl

theorem foldl_busEventStep_slot (filled : Bool) (b : Option BusCfg) : (slot filled).foldl busEventStep b = b := by
  cases filled <;> rfl

theorem foldl_lineStep_transfers (d : Dev) (bytes : List Byte) (l : Option Level) :
    (transfers bytes).foldl (lineStep d) l = l := by
  induction bytes with
  | nil => rfl
  | cons b bytes ih => exact ih

theorem foldl_busEventStep_transfers (bytes : List Byte) (b : Option BusCfg) :
    (transfers bytes).foldl busEventStep b = b := by
  induction bytes with
  | nil => rfl
  | cons _ bytes ih => exact ih

/-- When an operation comes to its transfers, its line is Low. -/
theorem lineAfter_sending (p : Params) (op : Op) (t : List Event) (sent : List Byte) :
    lineAfter op.dev (t ++ (beforeFrame p op ++ transfers sent)) = some .low := by
  rw [lineAfter_append, List.foldl_append, foldl_lineStep_transfers]
  cases op with
  | dacInit => simp [beforeFrame, foldl_lineStep_slot, lineStep, Op.dev]
  | dacWrite c v => rfl
  | swInit => simp [beforeFrame, foldl_lineStep_slot, lineStep, Op.dev]
  | swWrite m => rfl

/-- When an operation comes to its transfers, the bus is in a transaction with its device's configuration. -/
theorem busAfter_sending (p : Params) (op : Op) (t : List Event) (sent : List Byte) :
    busAfter (t ++ (beforeFrame p op ++ transfers sent)) = some (p.cfg op.dev) := by
  rw [busAfter_append, List.foldl_append, foldl_busEventStep_transfers]
  cases op with
  | dacInit => simp [beforeFrame, foldl_busEventStep_slot, busEventStep, Op.dev]
  | dacWrite c v => rfl
  | swInit => simp [beforeFrame, foldl_busEventStep_slot, busEventStep, Op.dev]
  | swWrite m => rfl

/-! ## Inits, and the driver of an accepted operation -/

theorem frameOf_dac_init {op : Op} (hdev : op.dev = .dac) (hinit : op.isInit = true) :
    frameOf op = [0x14, 0x00, 0x01] := by
  cases op with
  | dacInit => rfl
  | dacWrite c v => cases hinit
  | swInit => cases hdev
  | swWrite m => cases hinit

theorem frameOf_sw_init {op : Op} (hdev : op.dev = .sw) (hinit : op.isInit = true) : frameOf op = [0x00] := by
  cases op with
  | dacInit => cases hdev
  | dacWrite c v => cases hinit
  | swInit => rfl
  | swWrite m => cases hinit

/-- After an accepted operation its driver is Ready. -/
theorem completed_st_ready (p : Params) {op : Op} {s : State} (h : refusalOf op s = none) :
    (completed p op s).st.get op.dev = .ready := by
  obtain ⟨-, h⟩ := (refusalOf_eq_none op s).mp h
  cases hinit : op.isInit with
  | true => simp [completed, hinit]
  | false => simpa [completed, hinit] using h

end Sys2Proof.Machine

namespace Sys2Proof

open Machine

/-- Settles O36: the projection of each list part by part; before a transfer stand the events before the frame
(`before_transfer_of_steps`), which begin the bus. -/
theorem configurationAndEdgeOrder : Obligations.ConfigurationAndEdgeOrder := by
  unfold Obligations.ConfigurationAndEdgeOrder
  refine fun p => ⟨fun _ _ => rfl, fun _ => rfl, ?_, ?_, fun op before b after h => ?_⟩
  · simp only [dacInitSteps, edgesAndBus_append, edgesAndBus_slot]
    rfl
  · simp only [swInitSteps, edgesAndBus_append, edgesAndBus_slot]
    rfl
  · obtain ⟨sent, rfl⟩ := before_transfer_of_steps h
    exact busAfter_sending p op [] sent

/-- Settles O37: the counts of an operation's list, which is what an accepted instruction appends. -/
theorem busBeginsAndEndsArePaired : Obligations.BusBeginsAndEndsArePaired := by
  unfold Obligations.BusBeginsAndEndsArePaired
  refine ⟨fun p op => ⟨beginCount_steps p op, endCount_steps p op, getLast?_steps p op⟩, fun i s t h => ?_⟩
  obtain ⟨-, rfl⟩ := exec_next h
  simp only [completed, beginCount_append, endCount_append, beginCount_steps, endCount_steps, and_self]

/-- Settles O38: a slot adds nothing but its wait. -/
theorem waitSlotsOnlyAddWaits : Obligations.WaitSlotsOnlyAddWaits := by
  unfold Obligations.WaitSlotsOnlyAddWaits
  refine ⟨fun p => ⟨?_, ?_⟩, fun p => ⟨?_, ?_⟩⟩
  · simp only [dacInitSteps, withoutWaits_append, withoutWaits_slot]
    rfl
  · simp only [dacInitSteps, waitCount_append, waitCount_slot]
    simp [waitCount, transfers, encDacInit]
  · simp only [swInitSteps, withoutWaits_append, withoutWaits_slot]
    rfl
  · simp only [swInitSteps, waitCount_append, waitCount_slot]
    simp [waitCount, transfers, encSwInit]

/-- Settles O39: a DAC write has one wait and a switch write two, and `T_SETTLE` is at least a microsecond. -/
theorem writesWaitAtLeast : Obligations.WritesWaitAtLeast := by
  unfold Obligations.WritesWaitAtLeast
  refine ⟨fun p c v => ?_, fun p m => rfl, fun es => ?_⟩
  · exact Nat.one_mul p.settle
  · obtain ⟨-, -, hsettle⟩ := Config.params_legal
    exact Nat.le_mul_of_pos_right _ hsettle

/-- Settles O29: an init is accepted in every idle state, appends its own list and leaves its driver Ready. -/
theorem initsIgnoreTheState : Obligations.InitsIgnoreTheState := by
  unfold Obligations.InitsIgnoreTheState
  refine ⟨fun s s' hq hq' => ?_, fun s s' hq hq' => ?_, fun s hq => ?_, fun s c v hq => ?_, fun s m hq => ?_⟩
  · exact ⟨_, _, _, exec_accepted (i := .dacInit) (init_accepted hq rfl),
      exec_accepted (i := .dacInit) (init_accepted hq' rfl), rfl, rfl, bytesOf_steps _ _⟩
  · exact ⟨_, _, _, exec_accepted (i := .swInit) (init_accepted hq rfl),
      exec_accepted (i := .swInit) (init_accepted hq' rfl), rfl, rfl, bytesOf_steps _ _⟩
  · exact ⟨_, _, _, _, exec_accepted (i := .dacInit) (init_accepted hq rfl),
      exec_accepted (i := .swInit) (init_accepted hq rfl), exec_accepted (i := .swInit) (init_accepted hq rfl),
      exec_accepted (i := .dacInit) (init_accepted hq rfl), rfl, rfl, rfl⟩
  · have hinit : refusalOf .dacInit s = none := init_accepted hq rfl
    exact ⟨_, _, exec_accepted (i := .dacInit) hinit,
      exec_accepted (i := .dacWrite c v) (ready_accepted hq (completed_st_ready _ hinit)), rfl⟩
  · have hinit : refusalOf .swInit s = none := init_accepted hq rfl
    exact ⟨_, _, exec_accepted (i := .swInit) hinit,
      exec_accepted (i := .swWrite m) (ready_accepted hq (completed_st_ready _ hinit)), rfl⟩

end Sys2Proof
end

section
/-! SUPPORT. The laws of every run (spec 42_cs_sequencer R126, 10_state R23, R24): they hold after reset, a whole
accepted operation keeps them, and so does every step, in the middle of an operation too. -/

namespace Sys2Proof.Machine

theorem finish_of_init {op : Op} (h : op.isInit = true) (s : State) :
    finish op s = { s with st := s.st.set op.dev .ready } := if_pos h

theorem finish_of_write {op : Op} (h : op.isInit = false) (s : State) : finish op s = s := by simp [finish, h]

theorem setSeq_eq_self {s : State} {q : Seq} (h : s.seq = q) : { s with seq := q } = s := by
  subst h
  rfl

theorem emit_setSeq (e : Event) (s : State) (q : Seq) :
    emit e { s with seq := q } = { emit e s with seq := q } := emitAll_setSeq [e] s q

/-- The next event of an operation takes the state after its first `k` to that after its first `k + 1`. -/
theorem emit_after_take {p : Params} {op : Op} {k : Nat} {e : Event} (he : (steps p op)[k]? = some e) (s : State) :
    emit e (emitAll ((steps p op).take k) s) = emitAll ((steps p op).take (k + 1)) s := by
  rw [List.take_add_one, he, emitAll_append]
  rfl

end Sys2Proof.Machine

namespace Sys2Proof.Safety

open Sys2Proof.Machine

theorem lawful_iff_of_idle {p : Params} {s : State} (hq : s.seq = .idle) : Lawful p s ↔ IdleLaws p s := by
  simp only [Lawful, hq]

theorem lawful_iff_of_run {p : Params} {s : State} {op : Op} {k : Nat} (hq : s.seq = .run op k) :
    Lawful p s ↔ Midway p op k s := by
  simp only [Lawful, hq]

theorem IdleLaws.lawful {p : Params} {s : State} (h : IdleLaws p s) (hq : s.seq = .idle) : Lawful p s :=
  (lawful_iff_of_idle hq).mpr h

theorem Midway.lawful {p : Params} {s : State} {op : Op} {k : Nat} (h : Midway p op k s) (hq : s.seq = .run op k) :
    Lawful p s := (lawful_iff_of_run hq).mpr h

theorem idleLaws_reset (p : Params) : IdleLaws p State.reset where
  ready d h := by cases d <;> cases h
  uninitialized d _ := by cases d <;> exact ⟨rfl, rfl, rfl⟩
  busClosed := rfl
  lineTold d := by cases d <;> rfl
  outputTold d := by cases d <;> exact iff_of_false nofun nofun
  busTold := rfl
  noOpenFrame _ := rfl
  bytesScoped before b after h := absurd h.symm (List.append_ne_nil_of_right_ne_nil before (List.cons_ne_nil _ after))
  dacFrames := nofun
  swFrames := nofun
  dacFirst := nofun
  swFirst := nofun
  paired := rfl

/-- The laws at Idle say nothing of `bus.cfg`, of the inputs and of the refused mark. -/
theorem IdleLaws.setOutside {p : Params} {s : State} (h : IdleLaws p s) (cfg : Option BusCfg) (ins : List Input)
    (refused : Bool) : IdleLaws p { s with busCfg := cfg, inputs := ins, refusedSeen := refused } :=
  { h with }

/-! ## Law 4 -/

/-- The first events of an operation keep law 4: they come to a transfer with its line Low and the bus begun. -/
theorem TransfersScoped.append_steps_prefix {p : Params} {op : Op} {t es : List Event} (h : TransfersScoped p t)
    (hes : es <+: steps p op) : TransfersScoped p (t ++ es) := by
  obtain ⟨rest, hrest⟩ := hes
  have hown : ∀ before b after, es = before ++ .transfer b :: after →
      ∃ d, lineAfter d (t ++ before) = some .low ∧ busAfter (t ++ before) = some (p.cfg d) := by
    rintro before b after rfl
    obtain ⟨sent, rfl⟩ := before_transfer_of_steps (by rw [← hrest, List.append_assoc, List.cons_append])
    exact ⟨op.dev, lineAfter_sending p op t sent, busAfter_sending p op t sent⟩
  intro before b after hsplit
  rcases List.append_eq_append_iff.mp hsplit with ⟨late, rfl, hlate⟩ | ⟨early, rfl, hearly⟩
  · exact hown late b after hlate
  · cases early with
    | nil => simpa using hown [] b after hearly.symm
    | cons e early =>
      obtain ⟨rfl, -⟩ := List.cons.inj hearly
      exact h before b early rfl

theorem Lawful.transfersScoped {p : Params} {s : State} (h : Lawful p s) : TransfersScoped p s.trace := by
  unfold Lawful at h
  split at h
  · exact h.bytesScoped
  · obtain ⟨-, s0, h0, -, hs⟩ := h
    rw [hs, emitAll_trace]
    exact h0.bytesScoped.append_steps_prefix (List.take_prefix _ _)

/-! ## A whole operation keeps the laws -/

section
variable {p : Params} {op : Op} {s : State}

theorem frames_completed (h : IdleLaws p s) (d : Dev) :
    frames d (completed p op s).trace = frames d s.trace ++ (if d = op.dev then [frameOf op] else []) :=
  frames_steps p op (h.noOpenFrame d)

theorem mem_frames_completed (h : IdleLaws p s) {d : Dev} {f : List Byte}
    (hf : f ∈ frames d (completed p op s).trace) : f ∈ frames d s.trace ∨ op.dev = d ∧ f = frameOf op := by
  rw [frames_completed h] at hf
  by_cases hd : d = op.dev
  · simpa [hd] using hf
  · simpa [hd] using Or.inl hf

/-- What is the first frame after an operation was the first before, or is that of the device's init. -/
theorem head_frames_completed (h : IdleLaws p s) (ha : refusalOf op s = none) {d : Dev} {f : List Byte}
    (hf : (frames d (completed p op s).trace).head? = some f) :
    (frames d s.trace).head? = some f ∨ op.dev = d ∧ op.isInit = true ∧ f = frameOf op := by
  rw [frames_completed h] at hf
  cases hfs : frames d s.trace with
  | cons g gs => exact .inl (by simpa [hfs] using hf)
  | nil =>
    by_cases hd : d = op.dev
    · subst hd
      obtain ⟨-, hinit | hready⟩ := (refusalOf_eq_none op s).mp ha
      · exact .inr ⟨rfl, hinit, by simpa [hfs, eq_comm] using hf⟩
      · obtain ⟨-, -, hsome⟩ := h.ready _ hready
        exact absurd hfs hsome
    · simp [hfs, hd] at hf

/-- After an accepted operation the own driver is as law 1 has a Ready one. -/
theorem completed_own_ready (h : IdleLaws p s) (ha : refusalOf op s = none) :
    (completed p op s).oe.get op.dev = true ∧ (completed p op s).cs.get op.dev = some .high ∧
      frames op.dev (completed p op s).trace ≠ [] := by
  refine ⟨?_, PerDev.get_set_self _ _ _, by simp [frames_completed h]⟩
  obtain ⟨-, hready⟩ := (refusalOf_eq_none op s).mp ha
  cases hinit : op.isInit with
  | true => simp [completed, hinit]
  | false =>
    obtain ⟨hoe, -, -⟩ := h.ready op.dev (by simpa [hinit] using hready)
    simpa [completed, hinit] using hoe

/-- A whole accepted operation keeps the laws at Idle. -/
theorem IdleLaws.completed (h : IdleLaws p s) (ha : refusalOf op s = none) : IdleLaws p (completed p op s) where
  ready d hd := by
    by_cases hdev : d = op.dev
    · subst hdev
      exact completed_own_ready h ha
    · obtain ⟨hst, hoe, hcs⟩ := completed_of_other_dev p s hdev
      rw [hst] at hd
      rw [hoe, hcs, frames_completed h, if_neg hdev, List.append_nil]
      exact h.ready d hd
  uninitialized d hd := by
    by_cases hdev : d = op.dev
    · subst hdev
      rw [completed_st_ready p ha] at hd
      cases hd
    · obtain ⟨hst, hoe, hcs⟩ := completed_of_other_dev p s hdev
      rw [hst] at hd
      rw [hoe, hcs, frames_completed h, if_neg hdev, List.append_nil]
      exact h.uninitialized d hd
  busClosed := rfl
  lineTold d := by
    have htold := lineAfter_emitAll (steps p op) (h.lineTold d)
    rwa [emitAll_steps] at htold
  outputTold d := by
    have htold := oe_iff_mem_trace_emitAll (steps p op) (h.outputTold d)
    rwa [emitAll_steps] at htold
  busTold := busAfter_steps p op s.trace
  noOpenFrame d := openFrame_steps p op (h.noOpenFrame d)
  bytesScoped := h.bytesScoped.append_steps_prefix (List.prefix_refl _)
  dacFrames f hf := by
    rcases mem_frames_completed h hf with hf | ⟨hdev, rfl⟩
    · exact h.dacFrames f hf
    · exact frameOf_length_dac hdev
  swFrames f hf := by
    rcases mem_frames_completed h hf with hf | ⟨hdev, rfl⟩
    · exact h.swFrames f hf
    · exact frameOf_length_sw hdev
  dacFirst f hf := by
    rcases head_frames_completed h ha hf with hf | ⟨hdev, hinit, rfl⟩
    · exact h.dacFirst f hf
    · exact frameOf_dac_init hdev hinit
  swFirst f hf := by
    rcases head_frames_completed h ha hf with hf | ⟨hdev, hinit, rfl⟩
    · exact h.swFirst f hf
    · exact frameOf_sw_init hdev hinit
  paired := by
    simp only [Machine.completed, beginCount_append, endCount_append, beginCount_steps, endCount_steps, h.paired]

end

/-! ## A step keeps the laws -/

/-- The next event of an operation keeps the laws: the state stays that of lawful idleness and the first events of
the operation, and after the last it is the state the whole operation leaves. -/
theorem Midway.lawful_advance {p : Params} {op : Op} {k : Nat} {s : State} (h : Midway p op k s) :
    Lawful p (advance p op k s) := by
  obtain ⟨hk, s0, h0, ha, rfl⟩ := h
  obtain ⟨hq, -⟩ := (refusalOf_eq_none op s0).mp ha
  have he : (steps p op)[k]? = some (steps p op)[k] := List.getElem?_eq_getElem hk
  have hk : k + 1 ≤ (steps p op).length := hk
  rcases hk.lt_or_eq with hmid | hlast
  · rw [advance_mid he hmid, emit_setSeq, emit_after_take he]
    exact Midway.lawful ⟨hmid, s0, h0, ha, rfl⟩ rfl
  · rw [advance_last he hlast, emit_setSeq, emit_after_take he, hlast, List.take_length]
    have hwhole : finish op { emitAll (steps p op) s0 with seq := .idle } = completed p op s0 := by
      rw [setSeq_eq_self ((emitAll_seq _ _).trans hq), finish_emitAll]
    exact hwhole ▸ (h0.completed ha).lawful hq

theorem midway_start {p : Params} {op : Op} {s : State} (h : IdleLaws p s) (ha : refusalOf op s = none) :
    Midway p op 0 { s with seq := .run op 0 } :=
  ⟨steps_length_pos p op, s, h, ha, rfl⟩

/-! ## The select lines -/

/-- In a lawful state only one line may be Low: none at Idle, that of the operation in the middle of one. -/
theorem Lawful.exists_only_low {p : Params} {s : State} (h : Lawful p s) :
    ∃ d, ∀ d', d' ≠ d → s.cs.get d' ≠ some .low := by
  unfold Lawful at h
  split at h
  · exact ⟨.dac, fun d' _ => h.cs_ne_low d'⟩
  · next op k _ =>
    obtain ⟨-, s0, h0, -, hs⟩ := h
    refine ⟨op.dev, fun d' hd => ?_⟩
    have hunnamed : ∀ e ∈ (steps p op).take k, e.names d' = false :=
      fun e he => names_other_of_mem_steps (List.mem_of_mem_take he) hd
    rw [hs]
    exact (emitAll_cs_get_unnamed hunnamed s0).trans_ne (h0.cs_ne_low d')

theorem Lawful.not_both_low {p : Params} {s : State} (h : Lawful p s) :
    ¬ (s.cs.get .dac = some .low ∧ s.cs.get .sw = some .low) := by
  rintro ⟨hdac, hsw⟩
  obtain ⟨d, hd⟩ := h.exists_only_low
  cases d with
  | dac => exact hd .sw (by decide) hsw
  | sw => exact hd .dac (by decide) hdac

theorem Lawful.other_ne_low {p : Params} {s : State} (h : Lawful p s) {d : Dev} (hd : s.cs.get d = some .low) :
    s.cs.get d.other ≠ some .low := by
  intro hother
  cases d with
  | dac => exact h.not_both_low ⟨hd, hother⟩
  | sw => exact h.not_both_low ⟨hother, hd⟩

theorem level_cases_of_ne_low {l : Option Level} (h : l ≠ some .low) : l = some .high ∨ l = none := by
  rcases l with _ | _ | _
  · exact .inr rfl
  · exact .inl rfl
  · exact absurd rfl h

theorem Lawful.listeners_length_le {p : Params} {s : State} (h : Lawful p s) : (listeners s).length ≤ 1 := by
  by_cases hdac : s.cs.get .dac = some .low
  · have hsw : s.cs.get .sw ≠ some .low := h.other_ne_low hdac
    simp [listeners, hdac, hsw]
  · have hle := List.length_filter_le (fun d => decide (s.cs.get d = some .low)) [Dev.sw]
    simpa [listeners, hdac] using hle

end Sys2Proof.Safety

namespace Sys2Proof

open Machine Safety

/-- Settles O53: the trace is empty, both drivers are Uninitialized and no line has a level. -/
theorem resetIsLawful : Obligations.ResetIsLawful := (idleLaws_reset _).lawful rfl

/-- Settles O52, by what a step can do: an event of a running operation (`Midway.lawful_advance`), an operation as a
whole (`IdleLaws.completed`), the head of one, or something that the laws do not speak of. -/
theorem stepKeepsTheLaws : Obligations.StepKeepsTheLaws := by
  unfold Obligations.StepKeepsTheLaws
  intro s t h hstep
  rcases step_cases s with ⟨op, k, hq, hs⟩ | ⟨hq, -, hs⟩ | ⟨cfg, rest, hq, -, hs⟩ | ⟨w, rest, hq, -, ha, hs⟩ |
    ⟨w, rest, hq, -, ha, hs⟩ | ⟨w, rest, hq, -, -, hs⟩ <;> obtain rfl := Host.Outcome.next.inj (hs.symm.trans hstep)
  · exact ((lawful_iff_of_run hq).mp h).lawful_advance
  · exact h
  all_goals have hidle := (lawful_iff_of_idle hq).mp h
  · exact (hidle.setOutside (some cfg) rest s.refusedSeen).lawful hq
  · exact ((hidle.setOutside s.busCfg rest s.refusedSeen).completed ha).lawful hq
  · exact (midway_start (hidle.setOutside s.busCfg rest s.refusedSeen) ha).lawful rfl
  · exact (hidle.setOutside s.busCfg rest true).lawful hq

/-- Settles O54: only the line of the running operation may be Low (`Lawful.exists_only_low`). -/
theorem neverBothSelected : Obligations.NeverBothSelected := by
  unfold Obligations.NeverBothSelected
  exact fun s h => ⟨h.not_both_low, fun d hd => level_cases_of_ne_low (h.other_ne_low hd), h.listeners_length_le⟩

/-- Settles O55: law 4 at Idle, kept by the first events of an operation. -/
theorem everyTransferIsScoped : Obligations.EveryTransferIsScoped := fun _ h => h.transfersScoped

/-- Settles O35: the projection of each list part by part; a write is accepted of a Ready driver, whose line law 1
has High. -/
theorem selectLineSequence : Obligations.SelectLineSequence := by
  unfold Obligations.SelectLineSequence
  refine ⟨fun p => ?_, fun _ _ _ => rfl, fun p => ?_, fun _ _ => rfl, fun i s t h hexec => ?_⟩
  · simp only [dacInitSteps, edgesAndBytes_append, edgesAndBytes_slot]
    rfl
  · simp only [swInitSteps, edgesAndBytes_append, edgesAndBytes_slot]
    rfl
  · obtain ⟨ha, rfl⟩ := exec_next hexec
    obtain ⟨hq, hready⟩ := (refusalOf_eq_none _ s).mp ha
    refine ⟨fun hwrite => ?_, PerDev.get_set_self _ _ _⟩
    obtain ⟨-, hcs, -⟩ := ((lawful_iff_of_idle hq).mp h).ready _ (by simpa [hwrite] using hready)
    exact hcs

end Sys2Proof
end

section
/-! SUPPORT. Steps and runs (spec 42_cs_sequencer R111, R115, R116; 10_state R23, R28, R37): a running operation event
by event up to the state that the whole request leaves, and that no step undoes anything. -/

namespace Sys2Proof.Machine

/-! ## The last action of an operation -/

@[simp] theorem finish_trace (op : Op) (s : State) : (finish op s).trace = s.trace := by
  unfold finish
  split <;> rfl

@[simp] theorem finish_inputs (op : Op) (s : State) : (finish op s).inputs = s.inputs := by
  unfold finish
  split <;> rfl

@[simp] theorem finish_refusedSeen (op : Op) (s : State) : (finish op s).refusedSeen = s.refusedSeen := by
  unfold finish
  split <;> rfl

@[simp] theorem finish_seq (op : Op) (s : State) : (finish op s).seq = s.seq := by
  unfold finish
  split <;> rfl

@[simp] theorem finish_oe (op : Op) (s : State) : (finish op s).oe = s.oe := by
  unfold finish
  split <;> rfl

theorem finish_st (op : Op) (s : State) :
    (finish op s).st = if op.isInit then s.st.set op.dev .ready else s.st := by
  unfold finish
  split <;> rfl

/-! ## Nothing is undone -/

/-- What is never undone on the way from `s` to `t` (spec 42_cs_sequencer R126 law 9): the events, Ready, the output
mode and the refused mark. -/
structure KeepsAll (s t : State) : Prop where
  trace : s.trace <+: t.trace
  ready : ∀ d, s.st.get d = .ready → t.st.get d = .ready
  output : ∀ d, s.oe.get d = true → t.oe.get d = true
  refused : s.refusedSeen = true → t.refusedSeen = true

theorem KeepsAll.refl (s : State) : KeepsAll s s :=
  ⟨List.prefix_refl _, fun _ => id, fun _ => id, id⟩

theorem KeepsAll.trans {s t u : State} (h : KeepsAll s t) (h' : KeepsAll t u) : KeepsAll s u :=
  ⟨h.trace.trans h'.trace, fun d hd => h'.ready d (h.ready d hd), fun d hd => h'.output d (h.output d hd),
    fun hr => h'.refused (h.refused hr)⟩

/-- The sequencer, `bus.cfg` and the inputs are none of what is kept. -/
theorem KeepsAll.setOutside {s t : State} (h : KeepsAll s t) (q : Seq) (cfg : Option BusCfg) (ins : List Input) :
    KeepsAll s { t with seq := q, busCfg := cfg, inputs := ins } := { h with }

theorem keepsAll_markRefused (s : State) : KeepsAll s (markRefused s) :=
  ⟨List.prefix_refl _, fun _ => id, fun _ => id, fun _ => rfl⟩

theorem keepsAll_emitAll (es : List Event) (s : State) : KeepsAll s (emitAll es s) where
  trace := ⟨es, (emitAll_trace es s).symm⟩
  ready d hd := by rwa [emitAll_st]
  output d hd := (emitAll_oe_get d es s).mpr (.inl hd)
  refused hr := by rwa [emitAll_refusedSeen]

theorem keepsAll_finish (op : Op) (s : State) : KeepsAll s (finish op s) where
  trace := by rw [finish_trace]
  ready d hd := by
    rw [finish_st]
    split
    · rw [PerDev.get_set]
      split
      · rfl
      · exact hd
    · exact hd
  output d hd := by rwa [finish_oe]
  refused hr := by rwa [finish_refusedSeen]

theorem keepsAll_advance (p : Params) (op : Op) (k : Nat) (s : State) : KeepsAll s (advance p op k s) := by
  cases he : (steps p op)[k]? with
  | none =>
    rw [advance_past he]
    exact (KeepsAll.refl s).setOutside .idle s.busCfg s.inputs
  | some e =>
    have hemit : KeepsAll s (emit e s) := keepsAll_emitAll [e] s
    obtain ⟨hk, -⟩ := List.getElem?_eq_some_iff.mp he
    have hk : k + 1 ≤ (steps p op).length := hk
    rcases hk.lt_or_eq with hmid | hlast
    · rw [advance_mid he hmid]
      exact hemit.setOutside (.run op (k + 1)) (emit e s).busCfg (emit e s).inputs
    · rw [advance_last he hlast]
      exact (hemit.setOutside .idle (emit e s).busCfg (emit e s).inputs).trans (keepsAll_finish op _)

theorem keepsAll_completed (p : Params) (op : Op) (s : State) : KeepsAll s (completed p op s) := by
  rw [← finish_emitAll]
  exact (keepsAll_emitAll (steps p op) s).trans (keepsAll_finish op _)

theorem keepsAll_step {s t : State} (h : step s = .next t) : KeepsAll s t := by
  rcases step_cases s with ⟨op, k, -, hs⟩ | ⟨-, -, hs⟩ | ⟨cfg, rest, -, -, hs⟩ | ⟨w, rest, -, -, -, hs⟩ |
    ⟨w, rest, -, -, -, hs⟩ | ⟨w, rest, -, -, -, hs⟩ <;> obtain rfl := Host.Outcome.next.inj (hs.symm.trans h)
  · exact keepsAll_advance _ op k s
  · exact .refl s
  · exact (KeepsAll.refl s).setOutside s.seq (some cfg) rest
  · exact ((KeepsAll.refl s).setOutside s.seq s.busCfg rest).trans (keepsAll_completed _ _ _)
  · exact (KeepsAll.refl s).setOutside (.run (opOf (decode w)) 0) s.busCfg rest
  · exact (keepsAll_markRefused s).setOutside s.seq s.busCfg rest

/-! ## What is refused -/

theorem write_refused {op : Op} {s : State} (hq : s.seq = .idle) (hwrite : op.isInit = false)
    (hst : s.st.get op.dev = .uninitialized) : refusalOf op s = some (.writeBeforeInit op.dev) := by
  simp [refusalOf, hq, hwrite, hst]

/-! ## The idle block runs the decoded instruction -/

theorem step_of_exec_next {s t : State} {w : Code} {rest : List Input} (hq : s.seq = .idle)
    (hi : s.inputs = .call w :: rest) (h : exec (decode w) { s with inputs := rest } = .next t) :
    step s = .next t := by
  obtain ⟨ha, rfl⟩ := exec_next h
  exact step_call_accepted hq hi ha

theorem step_of_exec_refused {s : State} {w : Code} {rest : List Input} {r : Refusal} (hq : s.seq = .idle)
    (hi : s.inputs = .call w :: rest) (h : exec (decode w) { s with inputs := rest } = .refused r) :
    step s = .next { s with inputs := rest, refusedSeen := true } := by
  have hr := exec_refused h
  exact step_request_refused hq (.inl hi) (Option.ne_none_iff_exists'.mpr ⟨r, hr⟩)

/-- A row's word that decodes is presented to the idle block. -/
theorem withFetchWord_of_decodes {nbits w : Nat} {i : Instr} (h : decodeTableWord nbits w = some i) (s : State) :
    ∃ c, decode c = i ∧ s.withFetchWord nbits w = present c s := by
  unfold decodeTableWord at h
  unfold State.withFetchWord
  cases hc : tableCode nbits w with
  | error e => simp [hc] at h
  | ok c => exact ⟨c, by simpa [hc] using h, rfl⟩

end Sys2Proof.Machine

namespace Sys2Proof.Safety

open Sys2Proof.Machine

/-! ## A running operation -/

/-- The state a running operation reaches after the events from `k` on. -/
def runOut (p : Params) (op : Op) (k : Nat) (s : State) : State :=
  finish op { emitAll ((steps p op).drop k) s with seq := .idle }

theorem runOut_last {p : Params} {op : Op} {k : Nat} {s : State} {e : Event} (he : (steps p op)[k]? = some e)
    (hk : k + 1 = (steps p op).length) : runOut p op k s = finish op { emit e s with seq := .idle } := by
  rw [runOut, List.drop_eq_getElem?_toList_append, he, hk, List.drop_length]
  rfl

theorem runOut_mid {p : Params} {op : Op} {k : Nat} {s : State} {e : Event} (he : (steps p op)[k]? = some e)
    (q : Seq) : runOut p op (k + 1) { emit e s with seq := q } = runOut p op k s := by
  rw [runOut, runOut, List.drop_eq_getElem?_toList_append (i := k), he, emitAll_setSeq]
  rfl

/-- A running operation completes in as many steps as it has events left (spec 42_cs_sequencer R116). -/
theorem runSteps_runOut {op : Op} {k : Nat} {s : State} (n : Nat) (hq : s.seq = .run op k)
    (hn : k + 1 + n = (steps Config.params op).length) :
    runSteps (n + 1) s = .next (runOut Config.params op k s) := by
  induction n generalizing k s with
  | zero =>
    have he : (steps Config.params op)[k]? = some _ := List.getElem?_eq_getElem (by omega)
    rw [runSteps_succ 0 (step_run hq), runSteps_zero, advance_last he hn, runOut_last he hn]
  | succ n ih =>
    have he : (steps Config.params op)[k]? = some _ := List.getElem?_eq_getElem (by omega)
    rw [runSteps_succ (n + 1) (step_run hq), advance_mid he (by omega), ih rfl (by omega), runOut_mid he]

/-- From the head of its list, a running operation reaches the state that the whole request leaves. -/
theorem runOut_zero {p : Params} {op : Op} {s : State} (hq : s.seq = .idle) (q : Seq) :
    runOut p op 0 { s with seq := q } = completed p op s := by
  rw [runOut, List.drop_zero, emitAll_setSeq, ← finish_emitAll]
  exact congrArg (finish op) (setSeq_eq_self ((emitAll_seq _ _).trans hq))

end Sys2Proof.Safety

namespace Sys2Proof

open Machine Safety

/-- Settles O28: acceptance of the four operations and the state they leave; Ready stays by `keepsAll_step`. -/
theorem driverStateMachine : Obligations.DriverStateMachine := by
  unfold Obligations.DriverStateMachine
  refine ⟨fun s hq => ?_, fun s hq => ?_, fun c v s hq hready => ?_, fun m s hq hready => ?_,
    fun c v s hq hst => ?_, fun m s hq hst => ?_, fun s t d hstep => (keepsAll_step hstep).ready d⟩
  · exact ⟨_, exec_accepted (i := .dacInit) (init_accepted hq rfl), rfl, rfl⟩
  · exact ⟨_, exec_accepted (i := .swInit) (init_accepted hq rfl), rfl, rfl⟩
  · exact ⟨_, exec_accepted (i := .dacWrite c v) (ready_accepted hq hready), rfl⟩
  · exact ⟨_, exec_accepted (i := .swWrite m) (ready_accepted hq hready), rfl⟩
  · exact request_of_refused (op := .dacWrite c v) (write_refused hq rfl hst)
  · exact request_of_refused (op := .swWrite m) (write_refused hq rfl hst)

/-- Settles O57, by what a step keeps (`keepsAll_step`). -/
theorem stepsUndoNothing : Obligations.StepsUndoNothing := by
  unfold Obligations.StepsUndoNothing
  intro s t hstep
  obtain ⟨⟨es, htrace⟩, hready, houtput, hrefused⟩ := keepsAll_step hstep
  exact ⟨⟨es, htrace.symm⟩, hready, houtput, hrefused⟩

/-- Settles O46: a step of the idle block, with the next input a word; `withFetchWord` presents one. -/
theorem stepRunsTheDecodedInstruction : Obligations.StepRunsTheDecodedInstruction := by
  unfold Obligations.StepRunsTheDecodedInstruction
  refine ⟨fun s w rest hq hi => ⟨fun t => step_of_exec_next hq hi, fun r => step_of_exec_refused hq hi⟩, ?_⟩
  intro s t nbits w i hdecode hexec
  obtain ⟨c, rfl, hfetch⟩ := withFetchWord_of_decodes hdecode s
  rw [hfetch]
  exact step_of_exec_next (present_seq c s) (present_inputs c s) hexec

/-- Settles O48: the two cases of an advancing sequencer, before the last event and at it. -/
theorem oneEventAStep : Obligations.OneEventAStep := by
  unfold Obligations.OneEventAStep
  intro s op k hq hk
  have he : (steps Config.params op)[k]? = some _ := List.getElem?_eq_getElem hk
  have hk : k + 1 ≤ (steps Config.params op).length := hk
  rcases hk.lt_or_eq with hmid | hlast
  · refine ⟨_, _, (step_run hq).trans (congrArg _ (advance_mid he hmid)), he, rfl, emit_inputs _ s,
      emit_refusedSeen _ s, fun _ => ⟨rfl, emit_st _ s⟩, fun hlast => absurd hlast hmid.ne⟩
  · refine ⟨_, _, (step_run hq).trans (congrArg _ (advance_last he hlast)), he, finish_trace op _, ?_, ?_,
      fun hmid => absurd hlast hmid.ne, fun _ => ⟨finish_seq op _, ?_⟩⟩
    · rw [finish_inputs, emit_inputs]
    · rw [finish_refusedSeen, emit_refusedSeen]
    · rw [finish_st, emit_st]

/-- Settles O49: the run reaches `runOut`. -/
theorem runningOperationCompletes : Obligations.RunningOperationCompletes := by
  unfold Obligations.RunningOperationCompletes
  intro s op k hq hk
  obtain ⟨n, hn⟩ := Nat.exists_eq_add_of_lt hk
  have hleft : (steps Config.params op).length - k = n + 1 := by omega
  refine ⟨_, hleft ▸ runSteps_runOut n hq (by omega), finish_seq op _, ?_, ?_, fun hinit => ?_⟩
  · rw [runOut, finish_trace, emitAll_trace]
  · rw [runOut, finish_inputs, emitAll_inputs]
  · rw [runOut, finish_st, if_pos hinit, PerDev.get_set_self]

/-- Settles O50: an accepted `start` runs out to the state that `call` reaches at once; a refused request leaves the
same mark either way. -/
theorem smallStepsAgreeWithBigStep : Obligations.SmallStepsAgreeWithBigStep := by
  unfold Obligations.SmallStepsAgreeWithBigStep
  intro w rest s hq
  refine ⟨fun ha => ?_, fun hr => ?_⟩
  · obtain ⟨n, hn⟩ := Nat.exists_eq_add_of_lt (steps_length_pos Config.params (opOf (decode w)))
    have hstart := step_start_accepted (s := { s with inputs := .start w :: rest }) hq rfl ha
    have hcall := step_call_accepted (s := { s with inputs := .call w :: rest }) hq rfl ha
    rw [runSteps_succ _ hstart, hcall, hn, zero_add, runSteps_runOut n rfl (by omega)]
    exact congrArg Host.Outcome.next (runOut_zero (s := { s with inputs := rest }) hq _)
  · exact (step_request_refused (s := { s with inputs := .start w :: rest }) hq (.inr rfl) hr).trans
      (step_request_refused (s := { s with inputs := .call w :: rest }) hq (.inl rfl) hr).symm

end Sys2Proof
end

section
/-! SUPPORT. Progress (spec 60_exceptions R130, R136): the set of exceptions is empty, and a refused request is marked
while the run goes on (log entry 8). -/

namespace Sys2Proof

open Machine

/-- Settles O58: every case of `step_cases` names the state it leads to. A request is refused only as Busy or
WriteBeforeInit (`refusalOf_eq_some`), which `settle` turns into a mark and a next state. -/
theorem everyStateHasAStep : Obligations.EveryStateHasAStep := by
  unfold Obligations.EveryStateHasAStep
  intro s
  rcases step_cases s with ⟨op, k, -, hrun⟩ | ⟨-, -, hwait⟩ | ⟨cfg, rest, -, -, henv⟩ | ⟨w, rest, -, -, -, hcall⟩ |
    ⟨w, rest, -, -, -, hstart⟩ | ⟨w, rest, -, -, -, hmark⟩
  · exact ⟨advance Config.params op k s, hrun⟩
  · exact ⟨s, hwait⟩
  · exact ⟨_, henv⟩
  · exact ⟨_, hcall⟩
  · exact ⟨_, hstart⟩
  · exact ⟨_, hmark⟩

end Sys2Proof
end

section
/-! SUPPORT. The hazard of DAC.WRITE's first two events (spec 70_reset_and_hazards R158). -/

namespace Sys2Proof.Machine

/-- The step of a running operation at an event before its last (spec 42_cs_sequencer R116). -/
theorem step_mid {s : State} {op : Op} {k : Nat} {e : Event} (hq : s.seq = .run op k)
    (he : (steps Config.params op)[k]? = some e) (hk : k + 1 < (steps Config.params op).length) :
    step s = .next { emit e s with seq := .run op (k + 1) } := by
  rw [step_run hq, advance_mid he hk]

/-- The line falls in the first event of `DAC.WRITE`; its second configures the bus (spec 40_dac_encoder R82). -/
theorem steps_dacWrite_eq_cons_cons (p : Params) (c : Byte) (v : Half) :
    steps p (.dacWrite c v) = .csSet .dac .low :: .busBegin (p.cfg .dac) ::
      (transfers (encDac c v) ++ [.wait, .csSet .dac .high, .busEnd]) := rfl

end Sys2Proof.Machine

namespace Sys2Proof

open Machine

/-- Settles O44: the two steps emit `csSet .dac .low`, which keeps `bus.cfg`, and then `busBegin`, which keeps the
line. -/
theorem dacWriteSelectsBeforeConfiguring : Obligations.DacWriteSelectsBeforeConfiguring := by
  unfold Obligations.DacWriteSelectsBeforeConfiguring
  intro c v s hq
  have hsteps := steps_dacWrite_eq_cons_cons Config.params c v
  have hselect := step_mid (e := .csSet .dac .low) hq (by simp [hsteps]) (by simp [hsteps])
  have hconfigure := step_mid (s := { emit (.csSet .dac .low) s with seq := .run (.dacWrite c v) 1 })
    (e := .busBegin (Config.params.cfg .dac)) rfl (by simp [hsteps]) (by simp [hsteps])
  exact ⟨_, _, hselect, by simp, by simp, hconfigure, by simp, by simp⟩

end Sys2Proof
end

section
/-! SUPPORT. What is refused, and why (spec 42_cs_sequencer R112, R113; 60_exceptions R132, R136): an instruction is
refused exactly as its operation is, so each statement is about `refusalOf`. -/

namespace Sys2Proof.Machine

/-- An instruction has the refusal of its operation; the converse of `exec_refused`. -/
theorem exec_of_refused {i : Instr} {s : State} {r : Refusal} (h : refusalOf (opOf i) s = some r) :
    exec i s = .refused r := (exec_eq_request i s).trans (request_of_refused h)

/-- While an operation runs nothing else is looked at (spec 42_cs_sequencer R112). -/
theorem running_refused {o : Op} {k : Nat} {s : State} (hq : s.seq = .run o k) (op : Op) :
    refusalOf op s = some .busy := by
  unfold refusalOf
  rw [hq]

end Sys2Proof.Machine

namespace Sys2Proof

open Machine

/-- Settles O27: the two reasons of `refusalOf_eq_some`, the second for each driver; a row refused as a write is none
of the rows of `opOf_isInit`. -/
theorem nothingElseIsRefused : Obligations.NothingElseIsRefused := by
  unfold Obligations.NothingElseIsRefused
  intro i s r h
  rcases refusalOf_eq_some (exec_refused h) with hbusy | ⟨hr, hq, hwrite, hst⟩
  · exact .inl hbusy
  · obtain ⟨hdac, hsw, hframeDac, hframeSw⟩ :
        i ≠ .dacInit ∧ i ≠ .swInit ∧ i ≠ .frameDacInit ∧ i ≠ .frameSwInit := by
      simpa [hwrite] using (opOf_isInit i).not
    cases hd : (opOf i).dev <;> rw [hd] at hr hst
    · exact .inr (.inl ⟨hr, hq, hst, rfl, hdac, hframeDac⟩)
    · exact .inr (.inr ⟨hr, hq, hst, rfl, hsw, hframeSw⟩)

/-- Settles O25: each row listed asks for a write of its driver, whatever the command byte. -/
theorem writeBeforeInitIsRefused : Obligations.WriteBeforeInitIsRefused := by
  unfold Obligations.WriteBeforeInitIsRefused
  refine ⟨fun c v s hq hst i hi => exec_of_refused ?_, fun m s hq hst i hi => exec_of_refused ?_⟩
  · obtain ⟨c', hop⟩ : ∃ c', opOf i = .dacWrite c' v := by
      revert i
      simp [opOf]
    rw [hop]
    exact write_refused hq rfl hst
  · have hop : opOf i = .swWrite m := by
      revert i
      simp [opOf]
    rw [hop]
    exact write_refused hq rfl hst

/-- Settles O26: the sequencer is tested before the operation is looked at. -/
theorem runningBlockIsBusy : Obligations.RunningBlockIsBusy :=
  fun i _ _ _ hq => exec_of_refused (running_refused hq (opOf i))

end Sys2Proof
end
